-- ==== Sys2Proof/Word.lean ====
section
/-! DEFINITION. The widths of the block's values (00_scope R2, 30_encoding section 2), and nothing else. -/

namespace Sys2Proof

/-- The operand of DECODE: a 32-bit snapshot of the digital I/O lines (R52). Bit `p` has weight `2^p` (R4). -/
abbrev RawWord := BitVec 32

/-- The 16-bit code: one pattern, read unsigned as `u` and in two's complement as `s` (R53). -/
abbrev Code := BitVec 16

/-- A physical bit position within a RawWord, 0..31 (R10). -/
abbrev Position := BitVec 5

/-- The 16-entry wiring table, from logical index to physical position (R10). -/
abbrev BitMapTable := Vector Position 16

/-- The reference voltage as an unsigned count of `VREF_UNIT` (R13). -/
abbrev Reference := BitVec 16

/-- The signed value of a code as a 32-bit two's-complement pattern (R54). -/
abbrev SignedValue := BitVec 32

/-- The voltage: 32 bits, two's complement, 15 fraction bits of `VREF_UNIT` (R55). -/
abbrev Volt := BitVec 32

/-- A command word `{SRC, DIN}` (R50). -/
abbrev CommandWord := BitVec 33

end Sys2Proof
end

