-- ==== Sys2Proof/Syntax.lean ====
section
/-! DEFINITION. The commands of the block and the spec's pseudo-operations: one constructor per row of
spec/opcode_table.json. -/

namespace Sys2Proof

/-- One constructor per row of the opcode table. `decode` and `convert` are the block's whole command set (R57, R109).
The other four are the written pseudo-operations of R65: they have no encoding of their own, so the decoder never
answers one of them (log 9). -/
inductive Instr where
  /-- DECODE: `DIN` is a RawWord and goes through all three stages (R100). -/
  | decode (din : RawWord)
  /-- CONVERT: `DIN[15:0]` is a code and bypasses the remapper. The whole field `DIN` is kept, its upper half is
  ignored by the meaning (R101, R58). -/
  | convert (din : BitVec 32)
  /-- REMAP w: `DECODE w` of which the field CODE is read (R65). -/
  | remap (w : RawWord)
  /-- TCDEC c: `CONVERT c` of which the field SVAL is read (R65). -/
  | tcdec (c : Code)
  /-- SCALE c: `CONVERT c` of which the field VOLT is read (R65). -/
  | scale (c : Code)
  /-- DECODESEQ w0, ..., w(N-1): the N commands `DECODE w0` to `DECODE w(N-1)` in that order (R65, R103). -/
  | decodeSeq (ws : List RawWord)
  deriving DecidableEq, Repr

/-- The commands an operation of the table stands for, oldest first (R65). -/
def Instr.expand : Instr → List Instr
  | .decode din => [.decode din]
  | .convert din => [.convert din]
  | .remap w => [.decode w]
  | .tcdec c => [.convert (c.setWidth 32)]
  | .scale c => [.convert (c.setWidth 32)]
  | .decodeSeq ws => ws.map .decode

end Sys2Proof
end

