-- ==== Sys2Proof/WellFormed.lean ====
section
/-! DEFINITION. The checks of R57 (what a command word holds), R58 and R64 (what the host should drive), and R11 (what
table a model admits). -/

namespace Sys2Proof

/-- `i` is one of the two commands of the block (R57, R109): the pseudo-operations have no command word of their
own (R65). -/
def Instr.wellFormed : Instr → Bool
  | .decode _ => true
  | .convert _ => true
  | .remap _ => false
  | .tcdec _ => false
  | .scale _ => false
  | .decodeSeq _ => false

/-- The host's duty on CONVERT: it "should drive them to zero", `DIN[31:16]` (R58, R64). The block does not rely on
it: no meaning reads this check. -/
def Instr.drivenAsWritten : Instr → Bool
  | .decode _ => true
  | .convert din => din.extractLsb' 16 16 == 0#16
  | .remap _ => true
  | .tcdec _ => true
  | .scale _ => true
  | .decodeSeq _ => true

/-- The invariant of `MAP`: no two logical indices share a physical position (R11). -/
abbrev BitMapTable.Injective (m : BitMapTable) : Prop :=
  ∀ j k : Fin 16, j ≠ k → m[j] ≠ m[k]

end Sys2Proof
end

