-- ==== Sys2Proof/Config.lean ====
section
/-! DEFINITION. What one block fixes for its whole life (`MAP`, `VREF`, the constants of 00_scope section 4), and the
free values of the model. Each `opaque` constant below has no body: no proof can see its value. -/

namespace Sys2Proof

/-- The block's configuration inputs, constant from reset release on (R3, R12, R14). -/
structure Configuration where
  /-- `cfg_map`: entry `k` is the physical position of logical bit `k` (R10). -/
  map : BitMapTable
  /-- `cfg_vref`: the reference voltage in counts of `VREF_UNIT` (R13). -/
  vref : Reference
  deriving DecidableEq, Repr

namespace Config

/-- OPEN (D2): the wiring of the 32 I/O lines. A permutation of the 32 lines, of which the first 16 carry the ADC's
logical bits 0 to 15: its restriction is any injective table and every injective table is such a restriction (log 2). -/
opaque wiring : Equiv.Perm (Fin 32)

/-- OPEN (D2, log 2): the board's table, which is injective whatever `wiring` is. -/
def map : BitMapTable := Vector.ofFn fun k => BitVec.ofFin (wiring (k.castLE (by decide)))

/-- OPEN (D3, log 2): the board's reference voltage. -/
opaque vref : Reference

/-- The configuration the board drives at reset (R23: "not reset; the value the board or host drives"). -/
def board : Configuration := ⟨map, vref⟩

/-- `VOFF`, the additive offset of the scaler: 0, not configurable (R92). -/
def voff : Int := 0

/-- `VREF_UNIT` in millivolts: 1 (R3, D3). It only labels numbers: no step computes with it. -/
def vrefUnit : Rat := 1

/-- `FRAC`: the fraction bits of VOLT (R55). -/
def frac : Nat := 15

/-- Free values (log 3): what the data output `rsp_code` holds while `rsp_valid` is 0 (U5), one for each draw. -/
opaque freeCode : Nat → Code

/-- Free values (log 3): what the data output `rsp_sval` holds while `rsp_valid` is 0 (U5). -/
opaque freeSval : Nat → SignedValue

/-- Free values (log 3): what the data output `rsp_volt` holds while `rsp_valid` is 0 (U5). -/
opaque freeVolt : Nat → Volt

/-- Free value (N10, log 15): whether the host's parser accepts an integer written in a form the spec leaves open
(blanks around it, a sign, leading zeros). That the answer depends on the field's characters alone, and is the same
wherever the field stands in the text, is the model's choice (DESIGN CHOICE, log 21). -/
opaque acceptsForm : List Char → Bool

/-- Free value (N10, log 15): whether the host's parser drops a blank last field (a trailing comma, with or without a
final newline after it). That this is one answer, whichever blanks the field holds, is the model's choice (DESIGN
CHOICE, log 21). -/
opaque dropsBlankTail : Bool

end Config

end Sys2Proof
end

