-- ==== Sys2Proof/Decode.lean ====
section
/-! DEFINITION. The command word's decoder and encoder (30_encoding R50, R57, R61, R64, R65). -/

namespace Sys2Proof

/-- The field `SRC`, bit 32 (R50). -/
def srcOf (w : CommandWord) : Bool := w.getLsbD 32

/-- The field `DIN`, bits 31 down to 0 (R50). -/
def dinOf (w : CommandWord) : BitVec 32 := w.extractLsb' 0 32

/-- The command word `{SRC, DIN}` (R50). -/
def packCommand (src : Bool) (din : BitVec 32) : CommandWord := BitVec.ofBool src ++ din

/-- The command map: every one of the `2^33` words is DECODE (`SRC` = 0) or CONVERT (`SRC` = 1) (R57, R60). -/
def decodeCommand (w : CommandWord) : Instr :=
  if srcOf w then .convert (dinOf w) else .decode (dinOf w)

/-- The command words of an operation, oldest first: one for each command it stands for (R64, R65). -/
def encodeWords : Instr → List CommandWord
  | .decode din => [packCommand false din]
  | .convert din => [packCommand true din]
  | .remap w => [packCommand false w]
  | .tcdec c => [packCommand true (c.setWidth 32)]
  | .scale c => [packCommand true (c.setWidth 32)]
  | .decodeSeq ws => ws.map (packCommand false)

/-- Why a number is no command: the only way is not to fit the 33 bits of `cmd[32:0]` (R60, R66, log 11). -/
inductive DecodeRefusal where
  /-- The number is `2^33` or more, so it is no value of the command ports. Safe: nothing runs. -/
  | widerThanCommandWord
  deriving DecidableEq, Repr

/-- Decoding of any number: total, refusing by name what no command word can hold (log 11). -/
def decodeNumber (n : Nat) : Except DecodeRefusal Instr :=
  if n < 2 ^ 33 then .ok (decodeCommand (BitVec.ofNat 33 n)) else .error .widerThanCommandWord

/-- The instruction the decoder reads from a row of `nbits` bits whose bits are `w`. A command is one 33-bit word
(R66), so the table's numbering of its bits is the number itself. -/
def decodeTableWord (nbits w : Nat) : Option Instr :=
  match decodeNumber (w % 2 ^ nbits) with
  | .ok i => some i
  | .error _ => none

/-- A written line: a mnemonic and its operand, an integer (R64, R65). -/
inductive WrittenLine where
  /-- `DECODE <word>`. -/
  | decodeLine (word : Nat)
  /-- `CONVERT <code>`. -/
  | convertLine (code : Nat)
  /-- `REMAP <word>`. -/
  | remapLine (word : Nat)
  /-- `TCDEC <code>`. -/
  | tcdecLine (code : Nat)
  /-- `SCALE <code>`. -/
  | scaleLine (code : Nat)
  /-- `DECODESEQ <word>, ..., <word>`. -/
  | decodeSeqLine (words : List Nat)
  deriving DecidableEq, Repr

/-- The written `<word>`: an integer 0..4294967295, or none (R64). -/
def writtenWord (n : Nat) : Option RawWord := if n ≤ 4294967295 then some (BitVec.ofNat 32 n) else none

/-- The written `<code>`: an integer 0..65535, or none (R64). -/
def writtenCode (n : Nat) : Option Code := if n ≤ 65535 then some (BitVec.ofNat 16 n) else none

/-- The written words of a sequence: all of them, or none (R64, R103). -/
def writtenWords : List Nat → Option (List RawWord)
  | [] => some []
  | n :: ns =>
    match writtenWord n, writtenWords ns with
    | some w, some ws => some (w :: ws)
    | _, _ => none

/-- The operation a written line stands for; a written CONVERT has `DIN[31:16]` = 0 (R64). -/
def assemble : WrittenLine → Option Instr
  | .decodeLine n => (writtenWord n).map .decode
  | .convertLine n => (writtenCode n).map fun c => .convert (c.setWidth 32)
  | .remapLine n => (writtenWord n).map .remap
  | .tcdecLine n => (writtenCode n).map .tcdec
  | .scaleLine n => (writtenCode n).map .scale
  | .decodeSeqLine ns => (writtenWords ns).map .decodeSeq

/-- The written form of a command word: nine hexadecimal digits, most significant first (R64). -/
def hexDigits (w : CommandWord) : List (Fin 16) :=
  [8, 7, 6, 5, 4, 3, 2, 1, 0].map fun k => (w.extractLsb' (4 * k) 4).toFin

end Sys2Proof
end

