-- ==== Sys2Proof/Machine/State.lean ====
section
/-! DEFINITION. The state of the block (10_state), the reasons a step or a host move can stop, and the state after
reset (R23, R150). -/

namespace Sys2Proof.Machine

/-- The response record (R16). -/
structure Response where
  /-- The remapped bits (DECODE) or the operand (CONVERT). -/
  code : Code
  /-- `sext_32(CODE)`. -/
  sval : SignedValue
  /-- `s * VREF`, 15 fraction bits. -/
  volt : Volt
  deriving DecidableEq, Repr

/-- The block. -/
structure State where
  /-- The configuration inputs `cfg_map` and `cfg_vref`: constant, written by nothing (R12, R14, log 1). -/
  cfg : Configuration
  /-- The command port `cmd_valid` (R51). -/
  cmdValid : Bool
  /-- The command port `cmd_src` (R51). -/
  cmdSrc : Bool
  /-- The command port `cmd_din` (R51). -/
  cmdDin : BitVec 32
  /-- The commands accepted and not yet answered, oldest first (R21). -/
  pending : List CommandWord
  /-- The response stream since reset, oldest first (R5, R16). -/
  responses : List Response
  /-- The stream position: the number of the command that is answered next (R18). -/
  pos : Nat
  /-- The response port `rsp_valid` (R16). -/
  rspValid : Bool
  /-- The response port `rsp_code` (R16). -/
  rspCode : Code
  /-- The response port `rsp_sval` (R16). -/
  rspSval : SignedValue
  /-- The response port `rsp_volt` (R16). -/
  rspVolt : Volt
  /-- The model's own counter of free values taken for the data outputs (log 3). -/
  draws : Nat
  deriving DecidableEq, Repr

/-- The document's error kinds (R121). Each is raised by the HOST's side of the contract (Machine/Cycle.lean) and never
by a step of the block: "No command of the block raises an exception" (R120). -/
inductive Fault where
  /-- Raised by `acquire` when the sampling engine could not be started (R122). Safe: no word reaches the block. -/
  | engineLaunchFailure
  /-- Raised by `acquire` when the engine's text is not the expected integer list (R123, R63). Safe: no word reaches
  the block. -/
  | malformedSampleData
  /-- Raised by `awaitLow` when a bounded wait runs out (R124, R131, log 16). Safe: no word reaches the block. -/
  | handshakeStall
  deriving DecidableEq, Repr

/-- What the model refuses by name. -/
inductive Refusal where
  /-- Raised by a rejected arm of `exec`, of which there is none: every row of the table has its meaning. Safe. -/
  | notModelled (mnemonic : String)
  /-- Raised by `State.construct` on a table with two equal entries (R11, D10, U1). Safe: no block is built. -/
  | mapNotInjective
  /-- Raised by `runOneCycle` when the handshake is not in IDLE, from where alone the trigger is pulsed (R130). Safe. -/
  | handshakeNotIdle
  /-- Raised by `runOneCycle` while the external engine is not configured (R134, R153 step 2). Safe. -/
  | engineNotConfigured
  /-- Raised by `runOneCycle` while an earlier engine process is not drained and reaped (R37, R157, U10). Safe. -/
  | engineNotReaped
  /-- Raised by `runOneCycle` while the host is not sure that the hardware is idle: before any trigger, after a failed
  cycle or not (R125, R153 step 3, R161). Safe. -/
  | hardwareNotConfirmedIdle
  /-- Raised by `runOneCycle` after EngineLaunchFailure or HandshakeStall while the operator has not decided to
  re-trigger (R125, R161, log 17). Safe. -/
  | operatorHasNotDecided
  deriving DecidableEq, Repr

/-- The block right after reset: nothing pending, `rsp_valid` 0, position 0, the configuration the board drives, and
data outputs of any value (R23, R150). No command stands on the command port (log 5). -/
def State.reset : State where
  cfg := Config.board
  cmdValid := false
  cmdSrc := false
  cmdDin := 0#32
  pending := []
  responses := []
  pos := 0
  rspValid := false
  rspCode := Config.freeCode 0
  rspSval := Config.freeSval 0
  rspVolt := Config.freeVolt 0
  draws := 1

end Sys2Proof.Machine
end

