-- ==== Sys2Proof/Machine/Flags.lean ====
section
/-! DEFINITION. The block has no flags, condition codes or predicates, and no operation records carry, overflow, zero or
sign as a side effect (R20). The one bit with a name is the sign bit of the data. -/

namespace Sys2Proof.Machine

/-- `CODE[15]`, "logical bit 15 as sign bit" of the data: part of the response, not a status flag (R20, R53). -/
def signBit (c : Code) : Bool := c.getLsbD 15

end Sys2Proof.Machine
end

