-- ==== Sys2Proof/Machine/Operands.lean ====
section
/-! DEFINITION. The operand forms: the whole of `DIN` (R52), its low half (R53, R58), the fields of the configuration
port (R10), and the integers a RawWord can hold (R63). -/

namespace Sys2Proof.Machine

/-- DECODE's operand: all 32 bits of `DIN` (R52). -/
def rawWordOperand (din : BitVec 32) : RawWord := din

/-- CONVERT's operand: `DIN[15:0]`; `DIN[31:16]` is ignored (R58). -/
def codeOperand (din : BitVec 32) : Code := din.extractLsb' 0 16

/-- Entry `k` of the table as a bit number of a RawWord (R10). -/
def mapPosition (m : BitMapTable) (k : Fin 16) : Nat := m[k].toNat

/-- The table on the port `cfg_map[79:0]`: entry `k` is bits `5k+4` down to `5k` (R10). -/
def tableOfPort (cfgMap : BitVec 80) : BitMapTable := Vector.ofFn fun k => cfgMap.extractLsb' (5 * k.val) 5

/-- A RawWord is "an unsigned 32-bit integer": an integer outside 0..4294967295 is none, and is not truncated (R63). -/
def rawWordOfInt (n : Int) : Option RawWord :=
  if 0 ≤ n ∧ n ≤ 4294967295 then some (BitVec.ofInt 32 n) else none

end Sys2Proof.Machine
end

