-- ==== Sys2Proof/Machine/Stages.lean ====
section
/-! DEFINITION. The three stages REMAP, TCDEC and SCALE (40_remap, 41_tcdec, 42_scale), the response they make of an
operand, and what a VOLT pattern stands for. -/

namespace Sys2Proof.Machine

/-- REMAP: bit `k` of the code is the bit of the word at position `MAP[k]` (R70). -/
def remap (m : BitMapTable) (w : RawWord) : Code :=
  BitVec.ofFnLE fun k => w.getLsbD (mapPosition m k)

/-- TCDEC, the integer: `u - 65536` when `u` is 32768 or more, else `u` (R80). -/
def signedOfCode (c : Code) : Int :=
  if 32768 ≤ c.toNat then (c.toNat : Int) - 65536 else c.toNat

/-- TCDEC, the 32-bit pattern of the integer (R80). -/
def svalOfCode (c : Code) : SignedValue := BitVec.ofInt 32 (signedOfCode c)

/-- SCALE: the pattern of the exact product `s * VREF + VOFF` (R90). -/
def scale (s : Int) (vref : Reference) : Volt := BitVec.ofInt 32 (s * vref.toNat + Config.voff)

/-- The response to a code: TCDEC, then SCALE (R101). -/
def respondCode (cfg : Configuration) (c : Code) : Response :=
  ⟨c, svalOfCode c, scale (signedOfCode c) cfg.vref⟩

/-- The response to a RawWord: REMAP, then TCDEC, then SCALE (R100). -/
def respondRaw (cfg : Configuration) (w : RawWord) : Response :=
  respondCode cfg (remap cfg.map w)

/-- The response to a command word: with `SRC` = 1 the code path, with `SRC` = 0 the RawWord path (R57). It reads
nothing else, whatever came before (R106). -/
def respondWord (cfg : Configuration) (w : CommandWord) : Response :=
  if srcOf w then respondCode cfg (codeOperand (dinOf w)) else respondRaw cfg (rawWordOperand (dinOf w))

/-- The voltage in millivolts that a VOLT pattern stands for: `signed_32(VOLT) * VREF_UNIT / 32768` (R55). -/
def millivolts (v : Volt) : Rat := v.toInt * Config.vrefUnit / 2 ^ Config.frac

/-- `VOLT[31:15]`, the signed whole counts of `VREF_UNIT` (R55, R91). -/
def wholeCounts (v : Volt) : Int := (v.extractLsb' 15 17).toInt

/-- The 80-bit concatenation `{CODE, SVAL, VOLT}` (R56). -/
def record (r : Response) : BitVec 80 := r.code ++ r.sval ++ r.volt

end Sys2Proof.Machine
end

