-- ==== Sys2Proof/Machine/Ops.lean ====
section
/-! DEFINITION. The named operations on the block's state: taking a transfer in, taking the oldest command, emitting a
response, resting; and the host's moves of R141 (construction, reset, presenting a command, reading a response).
There is no exception entry and no return from one to model: the block raises nothing (R120, R128). -/

namespace Sys2Proof.Machine

/-- The command word that stands on the command port (R50, R51). -/
def portWord (s : State) : CommandWord := packCommand s.cmdSrc s.cmdDin

/-- Acceptance: "A command is accepted in each transfer in which `cmd_valid` is 1" (R51). The word joins the end of
`pending` and the transfer is over (log 6). -/
def accept (s : State) : State :=
  if s.cmdValid then { s with cmdValid := false, pending := s.pending ++ [portWord s] } else s

/-- Taking the oldest accepted command, after the transfer on the port (R5, R19). -/
def fetch (s : State) : Option (CommandWord × State) :=
  match (accept s).pending with
  | [] => none
  | w :: rest => some (w, { accept s with pending := rest })

/-- `emit(CODE, SVAL, VOLT)`: the record is appended to the response stream and shown on the response ports, and the
stream position advances by one (R16, R18). -/
def emit (r : Response) (s : State) : State :=
  { s with
    responses := s.responses ++ [r]
    pos := s.pos + 1
    rspValid := true
    rspCode := r.code
    rspSval := r.sval
    rspVolt := r.volt }

/-- The data outputs hold any value and `rsp_valid` is 0 (R16, U5): free values, a fresh draw each time (log 3). -/
def releasePorts (s : State) : State :=
  { s with
    rspValid := false
    rspCode := Config.freeCode s.draws
    rspSval := Config.freeSval s.draws
    rspVolt := Config.freeVolt s.draws
    draws := s.draws + 1 }

/-- With nothing accepted and nothing pending the block waits (R151) and no response is valid (log 4). -/
def idle (s : State) : State := releasePorts s

/-- Answering a RawWord: the response of R100, emitted. -/
def answerRaw (w : RawWord) (s : State) : State := emit (respondRaw s.cfg w) s

/-- Answering a code: the response of R101, emitted. -/
def answerCode (c : Code) (s : State) : State := emit (respondCode s.cfg c) s

/-- Answering RawWords one after another, in order (R103). -/
def answerAll : List RawWord → State → State
  | [], s => s
  | w :: ws, s => answerAll ws (answerRaw w s)

/-- The reset input: `pending` is emptied without a response, `rsp_valid` is 0, the numbering of commands starts again
at 0 and a new response stream starts with it; nothing else is touched (R23, R150, log 8, log 19). -/
def State.applyReset (s : State) : State :=
  releasePorts { s with pending := [], responses := [], pos := 0 }

/-- Construction: the block with the table and the reference of the configuration ports, or a refusal when the table
is not injective (R11, D10, R152, log 13). -/
def State.construct (cfgMap : BitVec 80) (cfgVref : BitVec 16) : Host.Outcome State Fault Refusal :=
  if (tableOfPort cfgMap).Injective then
    .next { State.reset with cfg := ⟨tableOfPort cfgMap, cfgVref⟩ }
  else .refused .mapNotInjective

/-- The host presents a command word on the command port (R51, R141). A transfer still standing there is taken in
first, so that no command is lost: "the model accepts every presented command" (R51, log 6). -/
def State.present (w : CommandWord) (s : State) : State :=
  { accept s with cmdValid := true, cmdSrc := srcOf w, cmdDin := dinOf w }

/-- The host reads the response ports: only while `rsp_valid` is 1 (R16, R141); reading changes nothing (R33). -/
def State.readPorts (s : State) : Option Response :=
  if s.rspValid then some ⟨s.rspCode, s.rspSval, s.rspVolt⟩ else none

end Sys2Proof.Machine
end

