-- ==== Sys2Proof/Machine/Commands.lean ====
section
/-! DEFINITION. The meanings of the block's two commands (43_commands). Neither writes a flag, raises anything, or
changes any state but the response stream, its position and the response ports. -/

namespace Sys2Proof.Machine

/-- DECODE (R100). -/
def execDecode (din : RawWord) (s : State) : Host.Outcome State Fault Refusal :=
  .next (answerRaw (rawWordOperand din) s)

/-- CONVERT (R101): `MAP` is not read and `DIN[31:16]` is ignored (R58). -/
def execConvert (din : BitVec 32) (s : State) : Host.Outcome State Fault Refusal :=
  .next (answerCode (codeOperand din) s)

end Sys2Proof.Machine
end

