-- ==== Sys2Proof/Machine/Pseudo.lean ====
section
/-! DEFINITION. The meanings of the four pseudo-operations of R65 and what the host reads of their responses. -/

namespace Sys2Proof.Machine

/-- REMAP w stands for `DECODE w` (R65). -/
def execRemap (w : RawWord) (s : State) : Host.Outcome State Fault Refusal := .next (answerRaw w s)

/-- TCDEC c stands for `CONVERT c` (R65). -/
def execTcdec (c : Code) (s : State) : Host.Outcome State Fault Refusal := .next (answerCode c s)

/-- SCALE c stands for `CONVERT c` (R65). -/
def execScale (c : Code) (s : State) : Host.Outcome State Fault Refusal := .next (answerCode c s)

/-- DECODESEQ stands for one DECODE after another, in the order of the words; none for the empty sequence
(R65, R103, R111). -/
def execDecodeSeq (ws : List RawWord) (s : State) : Host.Outcome State Fault Refusal :=
  .next (answerAll ws s)

/-- What a host reads of the response to an operation of the table (R65). -/
inductive Reading where
  /-- The whole record: DECODE and CONVERT (R100, R101). -/
  | whole (r : Response)
  /-- The field CODE: REMAP. -/
  | code (c : Code)
  /-- The field SVAL: TCDEC. -/
  | sval (v : SignedValue)
  /-- The field VOLT: SCALE. -/
  | volt (v : Volt)
  /-- The VOLT fields of the last responses, the document's SampleSequence: DECODESEQ (R103). -/
  | samples (vs : List Volt)
  deriving DecidableEq, Repr

/-- The last `n` VOLT fields of the response stream, oldest first (R103). -/
def lastVolts (n : Nat) (s : State) : List Volt :=
  (s.responses.drop (s.responses.length - n)).map Response.volt

/-- What the host reads in state `t`, after the operation; nothing while no response is valid (R16, R65). -/
def reading : Instr → State → Option Reading
  | .decode _, t => t.readPorts.map Reading.whole
  | .convert _, t => t.readPorts.map Reading.whole
  | .remap _, t => t.readPorts.map fun r => .code r.code
  | .tcdec _, t => t.readPorts.map fun r => .sval r.sval
  | .scale _, t => t.readPorts.map fun r => .volt r.volt
  | .decodeSeq ws, t => some (.samples (lastVolts ws.length t))

end Sys2Proof.Machine
end

