-- ==== Sys2Proof/Machine/Dispatch.lean ====
section
/-! DEFINITION. One arm per constructor of Instr. -/

namespace Sys2Proof.Machine

def exec (i : Instr) (s : State) : Host.Outcome State Fault Refusal :=
  match i with
  -- The two commands (R100, R101).
  | .decode din => Sys2Proof.Machine.execDecode din s
  | .convert din => Sys2Proof.Machine.execConvert din s
  -- The pseudo-operations (R65, R103).
  | .remap w => Sys2Proof.Machine.execRemap w s
  | .tcdec c => Sys2Proof.Machine.execTcdec c s
  | .scale c => Sys2Proof.Machine.execScale c s
  | .decodeSeq ws => Sys2Proof.Machine.execDecodeSeq ws s

end Sys2Proof.Machine
end

