-- ==== Sys2Proof/Machine/Step.lean ====
section
/-! DEFINITION. One step of the block: it takes the transfer on the command port in, takes the oldest command not yet
answered, and answers it; with no command it waits (R5, R19, R151). -/

namespace Sys2Proof.Machine

/-- One step (R5, R19; log 6, log 7). -/
def step (s : State) : Host.Outcome State Fault Refusal :=
  match fetch s with
  | some (w, t) => exec (decodeCommand w) t
  | none => .next (idle (accept s))

/-- The state in which the next step answers the command whose word is `w` (of `nbits` bits): it is the oldest of the
accepted commands (log 10). A number that is no command word (log 11) changes nothing. -/
def State.withFetchWord (s : State) (nbits w : Nat) : State :=
  if w % 2 ^ nbits < 2 ^ 33 then { s with pending := BitVec.ofNat 33 (w % 2 ^ nbits) :: s.pending } else s

end Sys2Proof.Machine
end

