-- ==== Sys2Proof/Machine/Cycle.lean ====
section
/-! DEFINITION. The host's side of the contract (60_exceptions, 30_encoding section 6, 43_commands R103 to R105): the
handshake, the acquisition with its text form and error kinds, and one whole cycle around the block. Out of the block's
own scope (00_scope section 3); given here as the environment of the block (log 14). `step` does not use this file. -/

namespace Sys2Proof.Machine

/-- The states of the host's handshake (R130). -/
inductive HandshakeState where
  /-- IDLE: no cycle runs. -/
  | idle
  /-- TRIGGERED: the trigger line was pulsed. -/
  | triggered
  /-- AWAITING_COMPLETION: the host polls the completion line. -/
  | awaitingCompletion
  /-- DONE: the line read LOW, the host acquires and decodes. -/
  | done
  deriving DecidableEq, Repr

/-- What moves the handshake (R130). -/
inductive HandshakeEvent where
  /-- "assert the trigger output line, then immediately deassert it (a pulse)". -/
  | pulseTrigger
  /-- "begin polling the completion input line". -/
  | beginPolling
  /-- One reading of the completion line: `true` is HIGH, `false` is LOW (R133). -/
  | readLevel (high : Bool)
  /-- The cycle's acquisition is over: "return to IDLE". -/
  | endCycle
  deriving DecidableEq, Repr

/-- The transition table of R130; `none` where the table has no transition. -/
def handshakeNext : HandshakeState → HandshakeEvent → Option HandshakeState
  | .idle, .pulseTrigger => some .triggered
  | .triggered, .beginPolling => some .awaitingCompletion
  | .awaitingCompletion, .readLevel true => some .awaitingCompletion
  | .awaitingCompletion, .readLevel false => some .done
  | .done, .endCycle => some .idle
  | _, _ => none

/-- The handshake after a list of events. -/
def handshakeRun : HandshakeState → List HandshakeEvent → Option HandshakeState
  | h, [] => some h
  | h, e :: es =>
    match handshakeNext h e with
    | some h' => handshakeRun h' es
    | none => none

/-- The levels the host drives on the trigger line in one cycle: high, then low (R130, R132). -/
def triggerPulse : List Bool := [true, false]

/-- How a wait for the completion line stands after some readings (R131). -/
inductive WaitEnd where
  /-- A reading was LOW: the wait is over. -/
  | low
  /-- Every reading so far was HIGH: the host still waits (R124, R158). -/
  | stillHigh
  /-- A bounded wait ran out (R131). -/
  | timedOut
  deriving DecidableEq, Repr

/-- The wait of AWAITING_COMPLETION over the levels read, oldest first: it ends at the first LOW and not before. With
the bound `some n` the host gives up at the HIGH reading after `n` others; with `none` it waits for ever (R131, log 16). -/
def awaitLow : Option Nat → List Bool → WaitEnd
  | _, [] => .stillHigh
  | _, false :: _ => .low
  | some 0, true :: _ => .timedOut
  | some (n + 1), true :: levels => awaitLow (some n) levels
  | none, true :: levels => awaitLow none levels

/-- ASCII decimal digits. -/
def isDigit (c : Char) : Bool := 48 ≤ c.toNat && c.toNat ≤ 57

/-- The blanks a host's parser may allow around an integer: space, tab, line feed, carriage return. The spec leaves
"spaces" and a final newline open and gives no set; that these four are the set, and any other white space makes a field
no integer, is the model's choice (DESIGN CHOICE, log 22). -/
def isBlank (c : Char) : Bool := c.toNat == 32 || c.toNat == 9 || c.toNat == 10 || c.toNat == 13

/-- The engine's text split at the delimiter, a comma (R62). -/
def splitFields : List Char → List (List Char)
  | [] => [[]]
  | c :: cs =>
    match splitFields cs with
    | f :: fs => if c.toNat = 44 then [] :: f :: fs else (c :: f) :: fs
    | [] => [[c]]

/-- The number that decimal digits write, most significant first. -/
def numeralValue (ds : List Char) : Nat := ds.foldl (fun n c => 10 * n + (c.toNat - 48)) 0

/-- A decimal integer in the one form the spec leaves no doubt about: digits alone, no needless leading zero (R62). -/
def isPlainNumeral (f : List Char) : Bool :=
  !f.isEmpty && f.all isDigit && (f.length == 1 || f.head? != some '0')

/-- A negative decimal integer: a minus sign before a plain numeral other than 0. It parses as an integer below 0, which
is no RawWord (R63; 95 section 3.6, "a negative integer is not a RawWord"). -/
def isNegativeNumeral : List Char → Bool
  | [] => false
  | c :: ds => c.toNat == 45 && isPlainNumeral ds && numeralValue ds != 0

/-- A field without the blanks at its two ends. -/
def trimBlanks (f : List Char) : List Char := ((f.dropWhile isBlank).reverse.dropWhile isBlank).reverse

/-- Whether a minus sign stands before the digits, and the digits. -/
def signAndDigits (f : List Char) : Bool × List Char :=
  match trimBlanks f with
  | [] => (false, [])
  | c :: ds => if c.toNat = 45 then (true, ds) else if c.toNat = 43 then (false, ds) else (false, c :: ds)

/-- An integer written with blanks around it, with a sign or with leading zeros: whether such a field is accepted is
in no document (N10, log 15; which characters are blanks, log 22). A field with a blank inside, between a sign and its
digits or between digits, is no such form and so no integer: the model's choice (DESIGN CHOICE, log 23). -/
def isOpenForm (f : List Char) : Bool :=
  !(signAndDigits f).2.isEmpty && (signAndDigits f).2.all isDigit

/-- "parses each field as an integer" (R62): the integer of a field, or none for a token that is no integer (R104). It
reads the field alone, not its place in the text (DESIGN CHOICE, log 21). -/
def fieldInteger (f : List Char) : Option Int :=
  if isPlainNumeral f then some (numeralValue f)
  else if isNegativeNumeral f then some (-(numeralValue f.tail : Int))
  else if isOpenForm f && Config.acceptsForm f then
    some (if (signAndDigits f).1 then -(numeralValue (signAndDigits f).2 : Int) else numeralValue (signAndDigits f).2)
  else none

/-- The fields of the text: whether a blank last field after a comma is dropped is in no document (N10, log 15, log 21). -/
def fieldsOf (text : List Char) : List (List Char) :=
  let fs := splitFields text
  if 1 < fs.length && (fs.getLast?.getD []).all isBlank && Config.dropsBlankTail then fs.dropLast else fs

/-- The RawWord of a field: an integer outside 0..4294967295 is none and is not truncated (R63). -/
def fieldRawWord (f : List Char) : Option RawWord :=
  match fieldInteger f with
  | some n => rawWordOfInt n
  | none => none

/-- Every field's RawWord, or none as soon as one field has none: all or nothing (R104, R123). -/
def rawWordsOfFields : List (List Char) → Option (List RawWord)
  | [] => some []
  | f :: fs =>
    match fieldRawWord f, rawWordsOfFields fs with
    | some w, some ws => some (w :: ws)
    | _, _ => none

/-- The engine's text as the expected integer list: a bad field, a length of zero, or a length other than the
configured sample count is MalformedSampleData (R62, R63, R123). -/
def parseText (count : Nat) (text : List Char) : Except Fault (List RawWord) :=
  match rawWordsOfFields (fieldsOf text) with
  | some ws => if ws.length = count ∧ ws ≠ [] then .ok ws else .error .malformedSampleData
  | none => .error .malformedSampleData

/-- How an engine that was started has ended: the spec speaks of the exit only, and names no exit status (N15, N16). -/
inductive ExitStatus where
  /-- It has exited as it should. -/
  | normal
  /-- It has started and exited abnormally (U14). -/
  | abnormal
  deriving DecidableEq, Repr

/-- How the sampling engine's run stands (R134). -/
inductive EngineRun where
  /-- "the external sampling process could not be started" (R122). -/
  | notStarted
  /-- The engine runs: the host "blocks until it terminates" (R134). -/
  | running
  /-- The engine has exited, in this way, with this text on its standard output (R62). -/
  | exited (status : ExitStatus) (text : List Char)
  deriving DecidableEq, Repr

/-- `acquire() -> sequence of RawWord` for a configured sample count (R134): none while the engine runs. Whether the host
takes the text of an engine that exited abnormally is the parameter of U14; a host that does not reports
MalformedSampleData, which is the model's choice (DESIGN CHOICE, log 20). -/
def acquire (count : Nat) (takesAbnormalExit : Bool) : EngineRun → Option (Except Fault (List RawWord))
  | .notStarted => some (.error .engineLaunchFailure)
  | .running => none
  | .exited .normal text => some (parseText count text)
  | .exited .abnormal text =>
    if takesAbnormalExit then some (parseText count text) else some (.error .malformedSampleData)

/-- What the host has before it pulses the trigger (R125, R153, R161, log 17). -/
structure RetriggerPermit where
  /-- The host is sure that the hardware is idle. How it is confirmed is in no document (N11). -/
  hardwareIdle : Bool
  /-- The operator has decided to re-trigger after a failure. -/
  operatorDecided : Bool
  deriving DecidableEq, Repr

/-- The block answers what it has accepted until nothing is pending: the end of a run (R163). -/
def drain (s : State) : Host.Outcome State Fault Refusal :=
  Host.Core.run Sys2Proof.core (accept s).pending.length s

/-- The host presents command words one after another, the block stepping after each, and waits for the last response
(R35, R163). -/
def driveWords : List CommandWord → State → Host.Outcome State Fault Refusal
  | [], s => drain s
  | w :: ws, s =>
    match step (s.present w) with
    | .next t => driveWords ws t
    | .fault f => .fault f
    | .refused r => .refused r

/-- What the outside world does in one cycle. -/
structure CycleInputs where
  /-- The handshake's state when the cycle is asked for (R130). -/
  phase : HandshakeState
  /-- "sampling frequency and sample count have been configured in the external sampling engine" (R134, R153). -/
  engineConfigured : Bool
  /-- The error kind the last cycle was reported with, if it failed (R125). -/
  lastFailure : Option Fault
  /-- An engine process of an earlier cycle is not yet drained and reaped (R37, R153). -/
  engineOutstanding : Bool
  /-- What the host has before it pulses the trigger (R125, R153). -/
  permit : RetriggerPermit
  /-- The bound of the wait, `none` for the unbounded wait of the described design (R131). -/
  pollBound : Option Nat
  /-- The levels of the completion line the host reads, oldest first: `true` is HIGH (R133). -/
  levels : List Bool
  /-- The configured sample count (R134). -/
  sampleCount : Nat
  /-- Whether this host takes the text of an engine that exited abnormally: the parameter of U14 (log 20). -/
  takesAbnormalExit : Bool
  /-- The sampling engine's run (R134). -/
  engine : EngineRun
  deriving DecidableEq, Repr

/-- Why the trigger may not be pulsed, if it may not. Before every cycle: the handshake is in IDLE (R130), the engine is
configured (R134, R153 step 2), an earlier engine is drained and reaped (R37, R157) and the hardware is idle (R153
step 3, R161). After a cycle that failed with EngineLaunchFailure (R161) or HandshakeStall (log 17): the operator has
decided. -/
def triggerRefusal (c : CycleInputs) : Option Refusal :=
  if c.phase ≠ .idle then some .handshakeNotIdle
  else if c.engineConfigured = false then some .engineNotConfigured
  else if c.engineOutstanding then some .engineNotReaped
  else if c.permit.hardwareIdle = false then some .hardwareNotConfirmedIdle
  else
    match c.lastFailure with
    | none => none
    | some .malformedSampleData => none
    | some .engineLaunchFailure => if c.permit.operatorDecided then none else some .operatorHasNotDecided
    | some .handshakeStall => if c.permit.operatorDecided then none else some .operatorHasNotDecided

/-- How a cycle stands. -/
inductive CycleEnding where
  /-- The trigger was not pulsed (R125, R161). -/
  | notTriggered (r : Refusal)
  /-- The completion line has not gone LOW: the host waits (R158). -/
  | waiting
  /-- The engine has not exited: the host is blocked (R134). -/
  | acquiring
  /-- The cycle failed with this error kind and nothing is handed on (R121, R140). -/
  | failed (f : Fault)
  /-- The block stopped: no step of it does (R120). -/
  | blockRefused (r : Refusal)
  /-- The cycle completed: the SampleSequence handed to the consumers (R103, R105). -/
  | handed (samples : List Volt)
  deriving DecidableEq, Repr

/-- What one cycle leaves. -/
structure CycleResult where
  /-- The levels driven on the trigger line (R132). -/
  trigger : List Bool
  /-- The handshake's state (R130). -/
  phase : HandshakeState
  /-- How the cycle stands. -/
  ending : CycleEnding
  /-- The block. -/
  block : State
  deriving DecidableEq, Repr

/-- The last part of a cycle, in DONE: the words, all of them parsed, are presented as DECODE commands in order, and the
SampleSequence is the VOLT fields of their responses (R36, R103, R105). The cycle ends at DONE (R130, C8). -/
def decodeCycle (ws : List RawWord) (s : State) : CycleResult :=
  match driveWords (encodeWords (.decodeSeq ws)) s with
  | .next t => ⟨triggerPulse, .done, .handed (lastVolts ws.length t), t⟩
  | .fault f => ⟨triggerPulse, .done, .failed f, s⟩
  | .refused r => ⟨triggerPulse, .done, .blockRefused r, s⟩

/-- `runOneCycle()`: the handshake, then `acquire`, then the decoding of the words, with no repetition (R105, R130, C8).
A failure ends the cycle before any word is presented (R104, R128, R140), in the phase it arose in. -/
def runOneCycle (c : CycleInputs) (s : State) : CycleResult :=
  match triggerRefusal c with
  | some r => ⟨[], c.phase, .notTriggered r, s⟩
  | none =>
    match awaitLow c.pollBound c.levels with
    | .stillHigh => ⟨triggerPulse, .awaitingCompletion, .waiting, s⟩
    | .timedOut => ⟨triggerPulse, .awaitingCompletion, .failed .handshakeStall, s⟩
    | .low =>
      match acquire c.sampleCount c.takesAbnormalExit c.engine with
      | none => ⟨triggerPulse, .done, .acquiring, s⟩
      | some (.error f) => ⟨triggerPulse, .done, .failed f, s⟩
      | some (.ok ws) => decodeCycle ws s

/-- Whether a cycle is over: it handed its sequence on or failed. -/
def CycleEnding.over : CycleEnding → Bool
  | .handed _ => true
  | .failed _ => true
  | .notTriggered _ => false
  | .waiting => false
  | .acquiring => false
  | .blockRefused _ => false

/-- The orchestrator's choice after a cycle that is over: with `loops` the host returns to IDLE for the next cycle, else
it stays where the cycle ended (R105, R130, C8; after a failure log 18). -/
def afterCycle (loops : Bool) (r : CycleResult) : HandshakeState :=
  if loops && r.ending.over then .idle else r.phase

end Sys2Proof.Machine
end

