-- ==== Sys2Proof/Machine/Fixtures.lean ====
section
/-! DEFINITION. The fixture tables of 95_test_vectors section 1 and the words built with them (R74). None is the
board's wiring, which no document gives (N2); the block uses none of them. -/

namespace Sys2Proof.Machine

/-- `MAP_ID`: `MAP[k] = k`. -/
def mapId : BitMapTable := #v[0, 1, 2, 3, 4, 5, 6, 7, 8, 9, 10, 11, 12, 13, 14, 15]

/-- `MAP_X`: `MAP[k] = (7k + 3) mod 32`. -/
def mapX : BitMapTable := #v[3, 10, 17, 24, 31, 6, 13, 20, 27, 2, 9, 16, 23, 30, 5, 12]

/-- `MAP_HI`: `MAP[k] = 16 + k`. -/
def mapHi : BitMapTable := #v[16, 17, 18, 19, 20, 21, 22, 23, 24, 25, 26, 27, 28, 29, 30, 31]

/-- `MAP_REV`: `MAP[k] = 15 - k`. -/
def mapRev : BitMapTable := #v[15, 14, 13, 12, 11, 10, 9, 8, 7, 6, 5, 4, 3, 2, 1, 0]

/-- `MAP_BAD`: entries 14 and 15 equal, a table a model must refuse. -/
def mapBad : BitMapTable := #v[0, 1, 2, 3, 4, 5, 6, 7, 8, 9, 10, 11, 12, 13, 14, 14]

/-- The word with only physical bit `p` set. -/
def oneHot (p : Nat) : RawWord := 1#32 <<< p

/-- `SCATTER(c, MAP)`, the sum over `k` of `c[k] * 2^MAP[k]`: no function of the block, but how test words are
built (R74). -/
def scatter (c : Code) (m : BitMapTable) : RawWord :=
  BitVec.ofNat 32 (∑ k : Fin 16, (c.getLsbD k).toNat * 2 ^ mapPosition m k)

/-- The bring-up check of a configured table against the table the tester believes in: the one-hot walk of program P2,
which passes when the code at position `k` is `2^k` for every `k` (R73, R154). -/
def bringUpCheck (configured believed : BitMapTable) : Bool :=
  (List.finRange 16).all fun k => (remap configured (oneHot (mapPosition believed k))).toNat == 2 ^ k.val

/-- The block after reset with a configuration of one's own (95 section 4, "the configuration named"). -/
def resetWith (m : BitMapTable) (vref : Reference) : State := { State.reset with cfg := ⟨m, vref⟩ }

end Sys2Proof.Machine
end

