-- ==== Sys2Proof/Safety.lean ====
section
/-! DEFINITION. What a good state and a safe run of the block are, in the terms claims use. -/

namespace Sys2Proof.Machine

/-- A response that R16, R54, R84 and R96 allow under a configuration: SVAL is the code's signed value, and VOLT that value times
the reference, exactly. -/
abbrev Response.WellAnswered (cfg : Configuration) (r : Response) : Prop :=
  r.sval.toInt = r.code.toInt ∧ r.volt.toInt = r.code.toInt * cfg.vref.toNat

/-- The table of the configuration is one a model admits (R11). -/
abbrev TableAdmitted (s : State) : Prop := s.cfg.map.Injective

/-- Command `i` has produced response `i`: the position is the number of responses (R18, R35). -/
abbrev PositionCountsResponses (s : State) : Prop := s.pos = s.responses.length

/-- While `rsp_valid` is 1 the ports show the last response of the stream (R16). -/
abbrev PortsShowLast (s : State) : Prop := s.rspValid = true → s.responses.getLast? = s.readPorts

/-- Every response of the stream is well answered. -/
abbrev AllWellAnswered (s : State) : Prop := ∀ r ∈ s.responses, r.WellAnswered s.cfg

/-- The invariant of the block. -/
structure Inv (s : State) : Prop where
  /-- R11. -/
  table : TableAdmitted s
  /-- R18. -/
  position : PositionCountsResponses s
  /-- R16. -/
  ports : PortsShowLast s
  /-- R54, R84. -/
  answers : AllWellAnswered s

/-- What a command leaves unchanged: the configuration, the command port, the queue, and the model's counter of free
values. Everything but the response stream, its position and the response ports (R100, R101, "State written: none"). -/
abbrev SameButResponses (s t : State) : Prop :=
  t.cfg = s.cfg ∧ t.cmdValid = s.cmdValid ∧ t.cmdSrc = s.cmdSrc ∧ t.cmdDin = s.cmdDin ∧
    t.pending = s.pending ∧ t.draws = s.draws

/-- From `s` to `t` exactly the response `r` was emitted: appended, shown on the ports, the position advanced by one,
and nothing else changed (R16, R18). -/
abbrev Emitted (r : Response) (s t : State) : Prop :=
  SameButResponses s t ∧ t.responses = s.responses ++ [r] ∧ t.pos = s.pos + 1 ∧ t.readPorts = some r

/-- A safe run: from `s` no number of steps meets a fault or a refusal (R120). -/
def NeverStops (s : State) : Prop := ∀ k, ∃ t, Host.Core.run Sys2Proof.core k s = .next t

end Sys2Proof.Machine
end

