-- ==== Sys2Proof/Certificates/Slice0/Obligations.lean ====
section
/-! DEFINITION. The statements about the block, from the numbered rules of spec/, and none about a program. -/

open Sys2Proof Sys2Proof.Machine

/-! ### Encoding -/

/-- Command words written out from the spec's encodings (95 sections 3.4, 3.5 and program P3) decode to the commands
they stand for, and numbers that are no command word are refused (log 11). -/
def Obligations.CommandWordsOfTheSpecDecode : Prop :=
  decodeCommand 0x048103608#33 = .decode 0x48103608#32 ∧
    decodeCommand 0x0DEADBEEF#33 = .decode 0xDEADBEEF#32 ∧
    decodeCommand 0x100008000#33 = .convert 0x00008000#32 ∧
    decodeCommand 0x1FFFF8000#33 = .convert 0xFFFF8000#32 ∧
    decodeTableWord 40 0x100007FFF = some (.convert 0x00007FFF#32) ∧
    decodeTableWord 40 0x07E7CFF9B = some (.decode 0x7E7CFF9B#32) ∧
    decodeNumber 0x200000000 = .error .widerThanCommandWord

/-- Decoding and encoding agree: on every command, whatever its operand, and on every command word (R50, R57). -/
def Obligations.CommandWordsRoundTrip : Prop :=
  (∀ i : Instr, i.wellFormed = true → (encodeWords i).map decodeCommand = [i]) ∧
    (∀ w : CommandWord, encodeWords (decodeCommand w) = [w]) ∧
    ∀ i : Instr, i.wellFormed = true → ∃ w, decodeCommand w = i

/-- The command map as match and mask: each of the `2^33` words is DECODE or CONVERT, never both, with the operand in
its low 32 bits (R57, R60). -/
def Obligations.EveryWordIsDecodeOrConvert : Prop :=
  ∀ w : CommandWord,
    (w &&& 0x100000000#33 = 0x000000000#33 → decodeCommand w = .decode (w.setWidth 32)) ∧
      (w &&& 0x100000000#33 = 0x100000000#33 → decodeCommand w = .convert (w.setWidth 32)) ∧
      ((w &&& 0x100000000#33 = 0x000000000#33) ↔ ¬(w &&& 0x100000000#33 = 0x100000000#33))

/-- The words of every operation of the table decode to the commands it stands for, each of them one of the two
commands of the block (R65). -/
def Obligations.OperationsExpandToCommands : Prop :=
  ∀ i : Instr, (encodeWords i).map decodeCommand = i.expand ∧ (∀ j ∈ i.expand, j.wellFormed = true) ∧
    (i.wellFormed = true ↔ i.expand = [i])

/-- The written form: a line of each of the six mnemonics is assembled exactly when its operands are in range, to the
operation it names, never truncated; a written CONVERT has `DIN[31:16]` = 0; and the words are `{0, w}` and
`{1, zext(c)}` (R64, R65). -/
def Obligations.WrittenLinesAreAssembled : Prop :=
  (∀ n : Nat, n ≤ 4294967295 → assemble (.decodeLine n) = some (.decode (BitVec.ofNat 32 n)) ∧
      assemble (.remapLine n) = some (.remap (BitVec.ofNat 32 n)) ∧
      ∃ w, encodeWords (.decode (BitVec.ofNat 32 n)) = [w] ∧ w.toNat = n) ∧
    (∀ n : Nat, n ≤ 65535 → assemble (.convertLine n) = some (.convert (BitVec.ofNat 32 n)) ∧
      assemble (.tcdecLine n) = some (.tcdec (BitVec.ofNat 16 n)) ∧
      assemble (.scaleLine n) = some (.scale (BitVec.ofNat 16 n)) ∧
      Instr.drivenAsWritten (.convert (BitVec.ofNat 32 n)) = true ∧
      ∃ w, encodeWords (.convert (BitVec.ofNat 32 n)) = [w] ∧ w.toNat = 2 ^ 32 + n) ∧
    (∀ n : Nat, 4294967295 < n → assemble (.decodeLine n) = none ∧ assemble (.remapLine n) = none) ∧
    (∀ n : Nat, 65535 < n → assemble (.convertLine n) = none ∧ assemble (.tcdecLine n) = none ∧
      assemble (.scaleLine n) = none) ∧
    (∀ ns : List Nat, (∀ n ∈ ns, n ≤ 4294967295) →
      assemble (.decodeSeqLine ns) = some (.decodeSeq (ns.map (BitVec.ofNat 32)))) ∧
    ∀ ns : List Nat, (∃ n ∈ ns, 4294967295 < n) → assemble (.decodeSeqLine ns) = none

/-! ### The step -/

/-- A step runs the decoded oldest command: after the transfer on the port is taken in, the oldest word leaves the
queue and `exec` of what it decodes to is the step (R5, R19; log 6). -/
def Obligations.StepRunsTheOldestCommand : Prop :=
  (∀ (s : State) (w : CommandWord) (rest : List CommandWord), (accept s).pending = w :: rest →
      step s = exec (decodeCommand w) { accept s with pending := rest }) ∧
    ∀ (s : State) (n : Nat), n < 2 ^ 33 →
      step (s.withFetchWord 40 n) = exec (decodeCommand (BitVec.ofNat 33 n)) (accept s)

/-- With no transfer on the port and nothing pending the block waits: the step changes nothing but the response ports,
on which no response is valid (R151; the model's choice of log 4, and the data outputs are any value, log 3). -/
def Obligations.StepWaitsWithoutACommand : Prop :=
  ∀ s : State, s.cmdValid = false → s.pending = [] →
    ∃ t, step s = .next t ∧ t.readPorts = none ∧ t.cfg = s.cfg ∧ t.cmdValid = false ∧ t.cmdSrc = s.cmdSrc ∧
      t.cmdDin = s.cmdDin ∧ t.pending = [] ∧ t.responses = s.responses ∧ t.pos = s.pos

/-- A presented word joins the end of the queue behind everything presented before; presenting changes nothing but the
command port and, for a transfer that stood there, the queue; acceptance changes nothing but the queue and `cmd_valid`,
and nothing at all when `cmd_valid` is 0 (R51; the port's timing is the model's choice, log 6). -/
def Obligations.PresentedCommandsAreAccepted : Prop :=
  (∀ (s : State) (w : CommandWord), (accept (s.present w)).pending = (accept s).pending ++ [w]) ∧
    (∀ s : State, s.cmdValid = true → (accept s).pending = s.pending ++ [packCommand s.cmdSrc s.cmdDin]) ∧
    (∀ s : State, s.cmdValid = false → accept s = s) ∧
    (∀ s : State, (accept s).cmdValid = false ∧ (accept s).cmdSrc = s.cmdSrc ∧ (accept s).cmdDin = s.cmdDin ∧
      (accept s).cfg = s.cfg ∧ (accept s).responses = s.responses ∧ (accept s).pos = s.pos ∧
      (accept s).rspValid = s.rspValid ∧ (accept s).rspCode = s.rspCode ∧ (accept s).rspSval = s.rspSval ∧
      (accept s).rspVolt = s.rspVolt ∧ (accept s).draws = s.draws) ∧
    ∀ (s : State) (w : CommandWord), s.present w =
      { s with cmdValid := true, cmdSrc := srcOf w, cmdDin := dinOf w, pending := (accept s).pending }

/-- No command raises an exception, traps, hangs or is refused: every operation answers a next state in every state, a
step always does, and no number of steps stops (R120). -/
def Obligations.NothingStops : Prop :=
  (∀ (i : Instr) (s : State), ∃ t, exec i s = .next t) ∧ (∀ s : State, ∃ t, step s = .next t) ∧
    ∀ s : State, NeverStops s

/-! ### The commands -/

/-- DECODE (R100): the response's code, signed value and voltage, the frame, the corner cases and the worked example. -/
def Obligations.DecodeAnswersARawWord : Prop :=
  (∀ (w : CommandWord), srcOf w = false → decodeCommand w = .decode (dinOf w)) ∧
    (∀ (s : State) (din : RawWord), ∃ t r, exec (.decode din) s = .next t ∧ Emitted r s t ∧
      (∀ k : Fin 16, r.code.getLsbD k = din.getLsbD (mapPosition s.cfg.map k)) ∧
      r.sval = r.code.signExtend 32 ∧
      r.volt.toInt = r.code.toInt * s.cfg.vref.toNat ∧
      ((∀ k : Fin 16, din.getLsbD (mapPosition s.cfg.map k) = false) → r = ⟨0#16, 0#32, 0#32⟩) ∧
      (s.cfg.map.Injective → din = oneHot (mapPosition s.cfg.map 15) →
        r = ⟨0x8000#16, 0xFFFF8000#32, BitVec.ofInt 32 (-32768 * s.cfg.vref.toNat)⟩) ∧
      (din = 0xFFFFFFFF#32 → r = ⟨0xFFFF#16, 0xFFFFFFFF#32, BitVec.ofInt 32 (-s.cfg.vref.toNat)⟩)) ∧
    ∀ s : State, s.cfg.map = mapX → s.cfg.vref = 4096#16 →
      ∃ t, exec (decodeCommand 0x048103608#33) s = .next t ∧ Emitted ⟨0xA5C3#16, 0xFFFFA5C3#32, 0xFA5C3000#32⟩ s t

/-- CONVERT (R101, R58): the code is the low half of `DIN`, the upper half is ignored; signed value, voltage and frame;
`MAP` is not read (two blocks that differ in their tables answer alike); and the worked example. -/
def Obligations.ConvertAnswersACode : Prop :=
  (∀ (w : CommandWord), srcOf w = true → decodeCommand w = .convert (dinOf w)) ∧
    (∀ (s : State) (din : BitVec 32), ∃ t r, exec (.convert din) s = .next t ∧ Emitted r s t ∧
      r.code.toNat = din.toNat % 65536 ∧
      r.sval = r.code.signExtend 32 ∧
      r.volt.toInt = r.code.toInt * s.cfg.vref.toNat) ∧
    (∀ (s : State) (din : BitVec 32), exec (.convert din) s = exec (.convert (din &&& 0x0000FFFF#32)) s) ∧
    (∀ (s s' : State) (din : BitVec 32), s.cfg.vref = s'.cfg.vref →
      ∃ t t' r, exec (.convert din) s = .next t ∧ exec (.convert din) s' = .next t' ∧ Emitted r s t ∧ Emitted r s' t') ∧
    ∀ s : State, s.cfg.vref = 4096#16 →
      ∃ t, exec (decodeCommand 0x100008000#33) s = .next t ∧ Emitted ⟨0x8000#16, 0xFFFF8000#32, 0xF8000000#32⟩ s t

/-- REMAP w is DECODE w, of which CODE is read: the gathered bits (R65, R70). -/
def Obligations.RemapReadsTheCode : Prop :=
  ∀ (s : State) (w : RawWord), exec (.remap w) s = exec (.decode w) s ∧
    ∃ t r, exec (.remap w) s = .next t ∧ Emitted r s t ∧ reading (.remap w) t = some (.code r.code) ∧
      ∀ k : Fin 16, r.code.getLsbD k = w.getLsbD (mapPosition s.cfg.map k)

/-- TCDEC c is CONVERT c, of which SVAL is read: the code's signed value (R65, R80). -/
def Obligations.TcdecReadsTheSignedValue : Prop :=
  ∀ (s : State) (c : Code), exec (.tcdec c) s = exec (.convert (c.setWidth 32)) s ∧
    ∃ t r, exec (.tcdec c) s = .next t ∧ Emitted r s t ∧ reading (.tcdec c) t = some (.sval r.sval) ∧
      (32768 ≤ c.toNat → r.sval.toInt = (c.toNat : Int) - 65536) ∧
      (c.toNat < 32768 → r.sval.toInt = c.toNat)

/-- SCALE c is CONVERT c, of which VOLT is read: for every signed value in range, the exact product with the reference
(R65, R90). -/
def Obligations.ScaleReadsTheVoltage : Prop :=
  (∀ (s : State) (c : Code), exec (.scale c) s = exec (.convert (c.setWidth 32)) s) ∧
    ∀ (s : State) (n : Int), -32768 ≤ n → n ≤ 32767 →
      ∃ t r, exec (.scale (BitVec.ofInt 16 n)) s = .next t ∧ Emitted r s t ∧
        reading (.scale (BitVec.ofInt 16 n)) t = some (.volt r.volt) ∧ r.volt.toInt = n * s.cfg.vref.toNat

/-- DECODESEQ: one response for each word, in order; the host reads their VOLT fields; the empty sequence does nothing
(R103, R111). -/
def Obligations.DecodeSeqAnswersEveryWord : Prop :=
  (∀ s : State, exec (.decodeSeq []) s = .next s) ∧
    ∀ (s : State) (ws : List RawWord), ∃ t, exec (.decodeSeq ws) s = .next t ∧ SameButResponses s t ∧
      t.pos = s.pos + ws.length ∧
      (∃ rs, t.responses = s.responses ++ rs ∧ rs.length = ws.length ∧
        reading (.decodeSeq ws) t = some (.samples (rs.map Response.volt)) ∧
        (ws ≠ [] → t.readPorts = rs.getLast?) ∧
        ∀ (i : Nat) (w : RawWord), ws[i]? = some w →
          ∃ r u, rs[i]? = some r ∧ exec (.decode w) s = .next u ∧ u.readPorts = some r)

/-- DECODESEQ is nothing but its N DECODE commands: the block that has them pending, in front of whatever else, is after
N steps in the state DECODESEQ gives (R103, R35; that a step answers one command is the model's choice, log 7). -/
def Obligations.DecodeSeqIsItsCommandsInOrder : Prop :=
  ∀ (s : State) (ws : List RawWord) (rest : List CommandWord), s.cmdValid = false →
    Host.Core.run core ws.length { s with pending := encodeWords (.decodeSeq ws) ++ rest } =
      exec (.decodeSeq ws) { s with pending := rest }

/-- Responses leave in the order of the commands, exactly one for each: for a stream of N pending command words the
block has after N steps exactly N more responses, and response `i` is what command `i` alone is answered (R35; that N
steps are enough, one command a step, is the model's choice, log 7). -/
def Obligations.StreamIsAnsweredInOrder : Prop :=
  ∀ s : State, s.cmdValid = false →
    ∃ t rs, Host.Core.run core s.pending.length s = .next t ∧ t.pending = [] ∧ t.cfg = s.cfg ∧
      t.responses = s.responses ++ rs ∧ rs.length = s.pending.length ∧ t.pos = s.pos + s.pending.length ∧
      ∀ (i : Nat) (w : CommandWord), s.pending[i]? = some w →
        ∃ r u, rs[i]? = some r ∧ exec (decodeCommand w) s = .next u ∧ u.readPorts = some r

/-- Whenever a run is over, after whatever number of steps, every command that was accepted at its start has exactly one
response, in order: with N commands pending, exactly N responses, response `i` being what command `i` alone is answered
(R35, R163). -/
def Obligations.FinishedRunAnsweredEachCommandOnce : Prop :=
  ∀ (n : Nat) (s t : State), s.cmdValid = false → Host.Core.run core n s = .next t → t.pending = [] →
    ∃ rs, t.responses = s.responses ++ rs ∧ rs.length = s.pending.length ∧
      ∀ (i : Nat) (w : CommandWord), s.pending[i]? = some w →
        ∃ r u, rs[i]? = some r ∧ exec (decodeCommand w) s = .next u ∧ u.readPorts = some r

/-- Words presented one after another on the command port are all answered, in order, behind what was accepted before,
and nothing stays pending (R35, R51, R163; log 6, log 7). -/
def Obligations.PresentedStreamIsAnswered : Prop :=
  ∀ (ws : List CommandWord) (s : State), ∃ t, driveWords ws s = .next t ∧ t.pending = [] ∧ t.cmdValid = false ∧
    t.cfg = s.cfg ∧ t.responses = s.responses ++ ((accept s).pending ++ ws).map (respondWord s.cfg) ∧
    t.pos = s.pos + (accept s).pending.length + ws.length

/-- No command is dropped, answered twice or overtaken: in a step the commands answered, the responses and the
commands still waiting stay in one line (R35, R41; R5, R19). That the step which takes a transfer in also answers, and
answers one command whenever one is accepted, is the model's choice (log 6, log 7). -/
def Obligations.NoCommandIsLostOrRepeated : Prop :=
  ∀ s t : State, step s = .next t →
    t.responses ++ t.pending.map (respondWord t.cfg) = s.responses ++ (accept s).pending.map (respondWord s.cfg) ∧
      t.responses.length ≤ s.responses.length + 1 ∧
      (t.pos = s.pos + 1 ↔ (accept s).pending ≠ [])

/-- Equal commands are answered equally wherever they stand: the response depends on the command word, `MAP` and `VREF`
and on nothing else of the state (R106, R18). -/
def Obligations.ResponseDependsOnCommandAlone : Prop :=
  ∀ (w : CommandWord) (s s' : State), s.cfg = s'.cfg →
    ∃ t t' r, exec (decodeCommand w) s = .next t ∧ exec (decodeCommand w) s' = .next t' ∧
      Emitted r s t ∧ Emitted r s' t'

/-- For every word, the response to DECODE equals the response to CONVERT of its remapped code; with `MAP_ID` the two
commands agree on every word (R102). -/
def Obligations.DecodeAgreesWithConvert : Prop :=
  (∀ (s : State) (w : RawWord), exec (.decode w) s = exec (.convert ((remap s.cfg.map w).setWidth 32)) s) ∧
    ∀ (s : State) (w : RawWord), s.cfg.map = mapId → exec (.decode w) s = exec (.convert w) s

/-! ### The stages -/

/-- REMAP gathers: bit by bit, as arithmetic, on the two constant words, and the worked example (R70). -/
def Obligations.RemapGathersMappedBits : Prop :=
  (∀ (m : BitMapTable) (w : RawWord),
      (∀ k : Fin 16, (remap m w).getLsbD k = w.getLsbD (mapPosition m k)) ∧
      (remap m w).toNat = ∑ k : Fin 16, (w.getLsbD (mapPosition m k)).toNat * 2 ^ k.val) ∧
    (∀ m : BitMapTable, remap m 0x00000000#32 = 0x0000#16 ∧ remap m 0xFFFFFFFF#32 = 0xFFFF#16) ∧
    remap mapX 0x48103608#32 = 0xA5C3#16

/-- Words that agree at every mapped position are remapped alike and answered alike in every field (R72), with the
examples of the rule. -/
def Obligations.UnmappedBitsAreIgnored : Prop :=
  (∀ (s : State) (w w' : RawWord),
      (∀ k : Fin 16, w.getLsbD (mapPosition s.cfg.map k) = w'.getLsbD (mapPosition s.cfg.map k)) →
      remap s.cfg.map w = remap s.cfg.map w' ∧ exec (.decode w) s = exec (.decode w') s) ∧
    remap mapX 0x366CC993#32 = 0x0000#16 ∧
    remap mapX (0x48103608#32 ||| 0x366CC993#32) = 0xA5C3#16

/-- The one-hot property of an injective table, its failure for any table with two equal entries, and the rule's
example (R73). -/
def Obligations.OneHotWordsGivePowersOfTwo : Prop :=
  (∀ m : BitMapTable, m.Injective → ∀ k : Fin 16, (remap m (oneHot (mapPosition m k))).toNat = 2 ^ k.val) ∧
    (∀ m : BitMapTable, ∀ j k : Fin 16, j ≠ k → mapPosition m j = mapPosition m k →
      (remap m (oneHot (mapPosition m k))).getLsbD j = true ∧ (remap m (oneHot (mapPosition m k))).getLsbD k = true) ∧
    (∀ m : BitMapTable, m.Injective → (remap m (oneHot (mapPosition m 15))).toInt = -32768) ∧
    remap mapX 0x80000000#32 = 0x0010#16

/-- The bring-up check passes exactly when the configured table is the one the tester believes in (R73, R154). -/
def Obligations.BringUpCheckFindsAWrongTable : Prop :=
  (∀ configured believed : BitMapTable, bringUpCheck configured believed = true → configured = believed) ∧
    (∀ m : BitMapTable, m.Injective → bringUpCheck m m = true) ∧
    bringUpCheck mapBad mapBad = false

/-- REMAP is onto: SCATTER is a right inverse, a word with the same mapped bits does as well, each code has exactly
`2^16` preimages; REMAP commutes with XOR and AND; and the rule's examples (R74). -/
def Obligations.RemapIsOntoAndLinear : Prop :=
  (∀ m : BitMapTable, m.Injective → ∀ c : Code,
      remap m (scatter c m) = c ∧
      (∀ w : RawWord, (∀ k : Fin 16, w.getLsbD (mapPosition m k) = (scatter c m).getLsbD (mapPosition m k)) →
        remap m w = c) ∧
      Nat.card { w : RawWord // remap m w = c } = 2 ^ 16) ∧
    (∀ (m : BitMapTable) (w w' : RawWord),
      remap m (w ^^^ w') = remap m w ^^^ remap m w' ∧ remap m (w &&& w') = remap m w &&& remap m w') ∧
    scatter 0x7FFF#16 mapX = 0xC993266C#32 ∧ scatter 0x8000#16 mapX = 0x00001000#32 ∧
    scatter 0xFFFF#16 mapX = 0xC993366C#32

/-- REMAP restricted to the low half-word is a permutation of the 16-bit patterns when, and only when, the table is
injective with all mapped positions in 0..15; as a map of words it never is one, since 16 bits are dropped (R75). -/
def Obligations.RemapSelectsSixteenBits : Prop :=
  (∀ m : BitMapTable, (m.Injective ∧ ∀ k : Fin 16, mapPosition m k < 16) ↔
      Function.Bijective fun c : BitVec 16 => remap m (c.setWidth 32)) ∧
    ∀ m : BitMapTable, ¬Function.Injective (remap m)

/-- The two's-complement law: the document's reconstruction, its agreement with the standard reading, the 32-bit
pattern, and the rule's corner cases and example (R80, R81). -/
def Obligations.TwosComplementLaw : Prop :=
  (∀ c : Code,
      (32768 ≤ c.toNat → signedOfCode c = (c.toNat : Int) - 65536) ∧
      (c.toNat < 32768 → signedOfCode c = c.toNat) ∧
      signedOfCode c = c.toInt ∧
      (32768 ≤ c.toNat ↔ signBit c = true) ∧
      svalOfCode c = BitVec.ofInt 32 (signedOfCode c) ∧ svalOfCode c = c.signExtend 32) ∧
    signedOfCode 0x0000#16 = 0 ∧ signedOfCode 0x7FFF#16 = 32767 ∧ signedOfCode 0x8000#16 = -32768 ∧
    signedOfCode 0xFFFF#16 = -1 ∧ signedOfCode 0xA5C3#16 = -23101 ∧ svalOfCode 0xA5C3#16 = 0xFFFFA5C3#32

/-- TCDEC is a bijection between the codes and -32768..32767, with the low 16 bits as its inverse; with REMAP onto,
every signed value in range is reached by some word (R82). -/
def Obligations.SignedValuesAreABijection : Prop :=
  (∀ c : Code, -32768 ≤ signedOfCode c ∧ signedOfCode c ≤ 32767 ∧ BitVec.ofInt 16 (signedOfCode c) = c ∧
      c.toNat = signedOfCode c % 65536) ∧
    (∀ n : Int, -32768 ≤ n → n ≤ 32767 → ∃! c : Code, signedOfCode c = n) ∧
    ∀ m : BitMapTable, m.Injective → ∀ n : Int, -32768 ≤ n → n ≤ 32767 → ∃ w : RawWord, signedOfCode (remap m w) = n

/-- SVAL: bits 31 to 16 are copies of `CODE[15]`, bits 15 to 0 are CODE, its value is the code's, and exactly the
patterns 0x00000000..0x00007FFF and 0xFFFF8000..0xFFFFFFFF occur (R54). -/
def Obligations.SvalIsASignExtension : Prop :=
  (∀ c : Code,
      (∀ i : Nat, i < 16 → (svalOfCode c).getLsbD i = c.getLsbD i) ∧
      (∀ i : Nat, 16 ≤ i → i < 32 → (svalOfCode c).getLsbD i = signBit c) ∧
      svalOfCode c = c.signExtend 32 ∧ (svalOfCode c).toInt = signedOfCode c) ∧
    ∀ v : SignedValue, (∃ c : Code, svalOfCode c = v) ↔ (v.toNat ≤ 0x00007FFF ∨ 0xFFFF8000 ≤ v.toNat)

/-- SCALE is the exact product: it always fits 32 bits, both extreme products are reached, the voltage it stands for,
and the worked example, -2887.625 mV (R90; the bounds are also R84's). -/
def Obligations.ScaleIsTheExactProduct : Prop :=
  (∀ (s : Int) (vref : Reference), -32768 ≤ s → s ≤ 32767 →
      (scale s vref).toInt = s * vref.toNat ∧
      -2147450880 ≤ (scale s vref).toInt ∧ (scale s vref).toInt ≤ 2147385345 ∧
      millivolts (scale s vref) = (vref.toNat : Rat) * s / 32768) ∧
    (scale (-32768) 65535#16).toInt = -2147450880 ∧ (scale 32767 65535#16).toInt = 2147385345 ∧
    (scale (-23101) 4096#16).toInt = -94621696 ∧ scale (-23101) 4096#16 = 0xFA5C3000#32 ∧
    millivolts (scale (-23101) 4096#16) = -2887625 / 1000

/-- The number VOLT stands for is the document's formula over the rationals, with nothing rounded; `VOLT[31:15]` is its
whole count rounded toward minus infinity and `VOLT[14:0]` the fraction in steps of 1/32768 (R55, R91; `VREF_UNIT` is
1 mV by the spec's decision D3). -/
def Obligations.VoltStandsForTheFormula : Prop :=
  ∀ (s : Int) (vref : Reference), -32768 ≤ s → s ≤ 32767 →
    millivolts (scale s vref) = (vref.toNat : Rat) * ((s : Rat) / 32768) ∧
      wholeCounts (scale s vref) = ⌊millivolts (scale s vref)⌋ ∧
      wholeCounts (scale s vref) = s * vref.toNat / 32768 ∧
      (scale s vref).toInt = wholeCounts (scale s vref) * 32768 + ((scale s vref).extractLsb' 0 15).toNat

/-- Seen from the unsigned code, TCDEC and SCALE are a multiply and an offset applied when the sign bit is set, and the
scaler is linear with zero offset (R92). -/
def Obligations.ScaleSeenFromTheUnsignedCode : Prop :=
  (∀ (c : Code) (vref : Reference),
      (scale (signedOfCode c) vref).toInt =
        (vref.toNat : Int) * c.toNat - vref.toNat * 65536 * (signBit c).toNat) ∧
    ∀ vref : Reference, scale 0 vref = 0#32

/-- The boundary voltages at zero, at the most negative and at the most positive code (R93, R94, R95), and the zero
reference (R97). -/
def Obligations.BoundaryVoltages : Prop :=
  (∀ vref : Reference,
      scale (signedOfCode 0x0000#16) vref = 0x00000000#32 ∧
      millivolts (scale (signedOfCode 0x8000#16) vref) = -(vref.toNat : Rat) ∧
      millivolts (scale (signedOfCode 0x7FFF#16) vref) = (vref.toNat : Rat) * 32767 / 32768 ∧
      (0 < vref.toNat → millivolts (scale (signedOfCode 0x7FFF#16) vref) < vref.toNat)) ∧
    scale (signedOfCode 0x8000#16) 4096#16 = 0xF8000000#32 ∧ scale (signedOfCode 0x8000#16) 65535#16 = 0x80008000#32 ∧
    scale (signedOfCode 0x7FFF#16) 4096#16 = 0x07FFF000#32 ∧ scale (signedOfCode 0x7FFF#16) 65535#16 = 0x7FFE8001#32 ∧
    ∀ c : Code, scale (signedOfCode c) 0#16 = 0x00000000#32

/-- The magnitude of every voltage is at most the reference: for every response of every command, with equality on the
left only at the code 0x8000 when the reference is not 0, and the step between adjacent codes (R96; for a zero reference
every voltage is 0, R97). -/
def Obligations.VoltageNeverExceedsReference : Prop :=
  (∀ (cfg : Configuration) (w : CommandWord),
      -32768 * (cfg.vref.toNat : Int) ≤ (respondWord cfg w).volt.toInt ∧
      (respondWord cfg w).volt.toInt ≤ 32767 * (cfg.vref.toNat : Int) ∧
      (cfg.vref ≠ 0#16 → ((respondWord cfg w).volt.toInt = -32768 * (cfg.vref.toNat : Int) ↔
        (respondWord cfg w).code = 0x8000#16))) ∧
    ∀ (c d : Code) (vref : Reference), d.toInt = c.toInt + 1 →
      (scale (signedOfCode d) vref).toInt - (scale (signedOfCode c) vref).toInt = vref.toNat

/-- The sign of VOLT is the sign of the signed value, and VOLT is 0 exactly when that value or the reference is (R85). -/
def Obligations.VoltageHasTheSignOfTheValue : Prop :=
  ∀ (c : Code) (vref : Reference),
    (vref ≠ 0#16 → (scale (signedOfCode c) vref).toInt.sign = (signedOfCode c).sign) ∧
      (scale (signedOfCode c) vref = 0#32 ↔ signedOfCode c = 0 ∨ vref = 0#16)

/-- The response record as one number, field by field (R56). -/
def Obligations.RecordIsCodeSvalVolt : Prop :=
  ∀ r : Response, (record r).extractLsb' 64 16 = r.code ∧ (record r).extractLsb' 32 32 = r.sval ∧
    (record r).extractLsb' 0 32 = r.volt

/-! ### Configuration, reset, invariant -/

/-- The state after reset and the effect of the reset input at any time: `pending` empty without a response,
`rsp_valid` 0, position 0, configuration untouched (R23, R150; the restarted stream is the model's reading, log 8, and
so is the command port left as the host drives it, log 19). -/
def Obligations.ResetEmptiesTheBlock : Prop :=
  (State.reset.pending = [] ∧ State.reset.rspValid = false ∧ State.reset.readPorts = none ∧ State.reset.pos = 0 ∧
      State.reset.responses = []) ∧
    ∀ s : State, s.applyReset.pending = [] ∧ s.applyReset.rspValid = false ∧ s.applyReset.readPorts = none ∧
      s.applyReset.pos = 0 ∧ s.applyReset.responses = [] ∧ s.applyReset.cfg = s.cfg ∧
      s.applyReset.cmdValid = s.cmdValid ∧ s.applyReset.cmdSrc = s.cmdSrc ∧ s.applyReset.cmdDin = s.cmdDin

/-- Construction (the refusal is decision D10, log 13): `MAP[k]` is read from bits `5k+4..5k` of `cfg_map`; a table with two equal entries is refused by name
and any other gives the reset state with that configuration (R10, R11). -/
def Obligations.ConstructionRefusesEqualEntries : Prop :=
  (∀ (cfgMap : BitVec 80) (k : Fin 16), (tableOfPort cfgMap)[k] = cfgMap.extractLsb' (5 * k.val) 5) ∧
    (∀ (cfgMap : BitVec 80) (cfgVref : BitVec 16),
      (∃ j k : Fin 16, j ≠ k ∧ cfgMap.extractLsb' (5 * j.val) 5 = cfgMap.extractLsb' (5 * k.val) 5) →
      State.construct cfgMap cfgVref = .refused .mapNotInjective) ∧
    ∀ (cfgMap : BitVec 80) (cfgVref : BitVec 16),
      (∀ j k : Fin 16, j ≠ k → cfgMap.extractLsb' (5 * j.val) 5 ≠ cfgMap.extractLsb' (5 * k.val) 5) →
      ∃ s, State.construct cfgMap cfgVref = .next s ∧ s = { State.reset with cfg := s.cfg } ∧
        s.cfg.vref = cfgVref ∧ ∀ k : Fin 16, s.cfg.map[k] = cfgMap.extractLsb' (5 * k.val) 5

/-- Every step keeps the invariant: the table is admitted, the position counts the responses, the ports show the last
response while one is valid, and every response of the stream is exact and signed as its code (R11, R16, R18, R54, R84). -/
def Obligations.StepKeepsTheInvariant : Prop :=
  ∀ s t : State, Inv s → step s = .next t → Inv t

/-- The invariant holds at reset, whatever table the board is wired with (R23, R11; the open table is the model's free
value, log 2). -/
def Obligations.ResetMeetsTheInvariant : Prop := Inv State.reset

/-- Every move of the host, and every operation of the table, keeps the invariant as well (R141, R11, R16, R18, R23).
That the reset input empties the response stream together with the position, without which the position would not count
the responses, is the model's reading (log 8); the refusal at construction is decision D10 (log 13). -/
def Obligations.HostMovesKeepTheInvariant : Prop :=
  (∀ (i : Instr) (s t : State), Inv s → exec i s = .next t → Inv t) ∧
    (∀ (w : CommandWord) (s : State), Inv s → Inv (s.present w)) ∧
    (∀ s : State, Inv s → Inv s.applyReset) ∧
    ∀ (cfgMap : BitVec 80) (cfgVref : BitVec 16) (s : State), State.construct cfgMap cfgVref = .next s → Inv s

/-- `MAP` and `VREF` never change while the block operates: no step, no operation, no reset and no presented command
writes them (R12, R14). -/
def Obligations.ConfigurationNeverChanges : Prop :=
  (∀ s t : State, step s = .next t → t.cfg = s.cfg) ∧
    (∀ (i : Instr) (s t : State), exec i s = .next t → t.cfg = s.cfg) ∧
    (∀ s : State, s.applyReset.cfg = s.cfg) ∧
    (∀ (w : CommandWord) (s : State), (s.present w).cfg = s.cfg) ∧
    ∀ (n : Nat) (s t : State), Host.Core.run core n s = .next t → t.cfg = s.cfg

/-! ### The host's side of the contract -/

/-- The handshake's path through a cycle: it reaches DONE at the first LOW and not before, every other event is no
transition, and a cycle that waits or is blocked stands in the state its readings lead to (R130). -/
def Obligations.HandshakeFollowsItsTable : Prop :=
  (∀ n : Nat, handshakeRun .idle ([.pulseTrigger, .beginPolling] ++ List.replicate n (.readLevel true)) =
      some .awaitingCompletion) ∧
    (∀ n : Nat, handshakeRun .idle ([.pulseTrigger, .beginPolling] ++ List.replicate n (.readLevel true) ++
      [.readLevel false]) = some .done) ∧
    (∀ n : Nat, handshakeRun .idle ([.pulseTrigger, .beginPolling] ++ List.replicate n (.readLevel true) ++
      [.readLevel false, .endCycle]) = some .idle) ∧
    (∀ (h h' : HandshakeState) (e : HandshakeEvent), handshakeNext h e = some h' →
      (h = .idle ∧ e = .pulseTrigger ∧ h' = .triggered) ∨
        (h = .triggered ∧ e = .beginPolling ∧ h' = .awaitingCompletion) ∨
        (h = .awaitingCompletion ∧ e = .readLevel true ∧ h' = .awaitingCompletion) ∨
        (h = .awaitingCompletion ∧ e = .readLevel false ∧ h' = .done) ∨
        (h = .done ∧ e = .endCycle ∧ h' = .idle)) ∧
    ∀ (c : CycleInputs) (s : State), triggerRefusal c = none → c.pollBound = none →
      (false ∉ c.levels →
        handshakeRun .idle ([.pulseTrigger, .beginPolling] ++ c.levels.map .readLevel) = some (runOneCycle c s).phase) ∧
      (false ∈ c.levels → c.engine = .running →
        handshakeRun .idle ([.pulseTrigger, .beginPolling] ++ (c.levels.takeWhile id).map .readLevel ++
          [.readLevel false]) = some (runOneCycle c s).phase)

/-- The wait ends only at a LOW: unbounded, it is over exactly when some reading was LOW; with a bound `n` it runs out
exactly when the first `n + 1` readings are all HIGH, and is over exactly when a LOW is among them (R131, R158; log 16). -/
def Obligations.WaitEndsAtTheFirstLow : Prop :=
  (∀ levels : List Bool, (awaitLow none levels = .low ↔ false ∈ levels) ∧
      (awaitLow none levels = .stillHigh ↔ false ∉ levels)) ∧
    ∀ (n : Nat) (levels : List Bool),
      (awaitLow (some n) levels = .low ↔ false ∈ levels.take (n + 1)) ∧
      (awaitLow (some n) levels = .timedOut ↔ levels.take (n + 1) = List.replicate (n + 1) true)

/-- Plain decimal integers joined by commas, one for each sample, become the RawWords in order (R62). -/
def Obligations.DecimalTextBecomesRawWords : Prop :=
  (∀ fs : List (List Char), fs ≠ [] →
      (∀ f ∈ fs, isPlainNumeral f = true ∧ numeralValue f ≤ 4294967295) →
      parseText fs.length ((fs.intersperse [',']).flatten) =
        .ok (fs.map fun f => BitVec.ofNat 32 (numeralValue f))) ∧
    parseText 3 ['1', ',', '2', ',', '3'] = .ok [1#32, 2#32, 3#32]

/-- A field that parses as an integer below 0 or above 4294967295 makes the whole acquisition MalformedSampleData: it is
never truncated and no word of the text is presented (R63). -/
def Obligations.OutOfRangeFieldIsMalformed : Prop :=
  ∀ (count : Nat) (takes : Bool) (status : ExitStatus) (text f : List Char) (n : Int), f ∈ fieldsOf text →
    fieldInteger f = some n → (n < 0 ∨ 4294967295 < n) →
    acquire count takes (.exited status text) = some (.error .malformedSampleData)

/-- A field that is no integer, wherever it stands, a text of length zero, and a number of fields that is not the
configured count each make the whole acquisition MalformedSampleData (R104, R123, R111). No integer are a field with a
character other than a digit, a blank and a sign, and fields such as `1-2`, `-`, `1 2` and an empty middle field (that a
blank field before the last is no integer is the model's deduction, log 15; which characters are blanks is its choice,
log 22, and so is that a blank inside a field leaves no integer, log 23). -/
def Obligations.BadTextIsMalformed : Prop :=
  (∀ (count : Nat) (takes : Bool) (status : ExitStatus) (text f : List Char), f ∈ fieldsOf text →
      fieldInteger f = none → acquire count takes (.exited status text) = some (.error .malformedSampleData)) ∧
    (∀ (text f : List Char) (c : Char), f ∈ splitFields text → c ∈ f → isDigit c = false → isBlank c = false →
      c ≠ '+' → c ≠ '-' → f ∈ fieldsOf text ∧ fieldInteger f = none) ∧
    (∀ f ∈ [['1', '-', '2'], ['-'], ['1', ' ', '2'], []], fieldInteger f = none) ∧
    (∀ before after : List Char, before ≠ [] → (∀ c ∈ before, c ≠ ',') → after ≠ [] → (∀ c ∈ after, c ≠ ',') →
      [] ∈ fieldsOf (before ++ [',', ','] ++ after)) ∧
    (∀ (count : Nat) (takes : Bool) (status : ExitStatus),
      acquire count takes (.exited status []) = some (.error .malformedSampleData)) ∧
    (∀ (takes : Bool) (status : ExitStatus) (text : List Char),
      acquire 0 takes (.exited status text) = some (.error .malformedSampleData)) ∧
    ∀ (count : Nat) (takes : Bool) (status : ExitStatus) (text : List Char), (fieldsOf text).length ≠ count →
      acquire count takes (.exited status text) = some (.error .malformedSampleData)

/-- How an abnormal exit with well-formed text is taken is a parameter of the host (U14): a host that takes it acquires
what a normal exit gives. A host that does not reports MalformedSampleData, which is the model's choice (log 20). -/
def Obligations.AbnormalExitIsAHostParameter : Prop :=
  ∀ (count : Nat) (text : List Char) (ws : List RawWord),
    acquire count false (.exited .normal text) = some (.ok ws) →
    acquire count true (.exited .abnormal text) = some (.ok ws) ∧
      acquire count false (.exited .abnormal text) = some (.error .malformedSampleData)

/-- A cycle fails exactly where its error kind arises, in the order of the phases, hands nothing on and leaves the block
as it was: HandshakeStall when a bounded wait runs out, EngineLaunchFailure when the engine does not start after a LOW,
MalformedSampleData when its text does not parse (R104, R122, R123, R127, R128, R131, R140), or, the model's choice of
log 20, when an abnormal exit is not taken. -/
def Obligations.FailedCycleLeavesTheBlock : Prop :=
  ∀ (c : CycleInputs) (s : State),
    (∀ f : Fault, (runOneCycle c s).ending = .failed f → (runOneCycle c s).block = s ∧ triggerRefusal c = none) ∧
      ((runOneCycle c s).ending = .failed .handshakeStall ↔
        triggerRefusal c = none ∧ awaitLow c.pollBound c.levels = .timedOut) ∧
      ((runOneCycle c s).ending = .failed .engineLaunchFailure ↔
        triggerRefusal c = none ∧ awaitLow c.pollBound c.levels = .low ∧ c.engine = .notStarted) ∧
      ((runOneCycle c s).ending = .failed .malformedSampleData ↔
        triggerRefusal c = none ∧ awaitLow c.pollBound c.levels = .low ∧
          ∃ status text, c.engine = .exited status text ∧
            (parseText c.sampleCount text = .error .malformedSampleData ∨
              (status = .abnormal ∧ c.takesAbnormalExit = false)))

/-- A good cycle hands on exactly one voltage for each RawWord, in acquisition order, each DECODE's own; the block is left
with nothing pending and the cycle ends at DONE (R103, R105, R130 with C8, R35). -/
def Obligations.GoodCycleHandsEveryVoltage : Prop :=
  ∀ (c : CycleInputs) (s : State) (ws : List RawWord), triggerRefusal c = none →
    awaitLow c.pollBound c.levels = .low → acquire c.sampleCount c.takesAbnormalExit c.engine = some (.ok ws) →
    (runOneCycle c s).trigger = [true, false] ∧ (runOneCycle c s).phase = .done ∧
      (runOneCycle c s).block.pending = [] ∧ (runOneCycle c s).block.cfg = s.cfg ∧
      ∃ vs, (runOneCycle c s).ending = .handed vs ∧ vs.length = ws.length ∧ ws.length = c.sampleCount ∧
        ∀ (i : Nat) (w : RawWord), ws[i]? = some w →
          ∃ r u, vs[i]? = some r.volt ∧ exec (.decode w) s = .next u ∧ u.readPorts = some r

/-- After a cycle that is over the return to IDLE is the orchestrator's choice, by the table's transition out of DONE for
a cycle that reached DONE; a cycle that waits, is blocked or was not triggered is not over (R130, R105, C8; that a
cycle which failed in the wait may return as well is the model's deduction, log 18). -/
def Obligations.ReturnToIdleIsTheOrchestratorsChoice : Prop :=
  ∀ (c : CycleInputs) (s : State),
    afterCycle false (runOneCycle c s) = (runOneCycle c s).phase ∧
      ((runOneCycle c s).ending.over = true → (runOneCycle c s).phase = .done →
        some (afterCycle true (runOneCycle c s)) = handshakeNext (runOneCycle c s).phase .endCycle) ∧
      ((runOneCycle c s).ending.over = true → afterCycle true (runOneCycle c s) = .idle) ∧
      ((runOneCycle c s).ending.over = false → afterCycle true (runOneCycle c s) = (runOneCycle c s).phase) ∧
      ((runOneCycle c s).ending.over = true ↔
        (∃ vs, (runOneCycle c s).ending = .handed vs) ∨ ∃ f, (runOneCycle c s).ending = .failed f)

/-- The trigger is pulsed exactly when the handshake is in IDLE, the engine configured, an earlier engine reaped, the
hardware known to be idle and, after EngineLaunchFailure or HandshakeStall, the operator has decided; else the block is
untouched and the reason is named. A host that waits or is blocked presents nothing (R125, R130, R134, R153, R157, R158,
R161; the operator after HandshakeStall is the model's deduction, log 17). -/
def Obligations.NoTriggerWithoutPermission : Prop :=
  (∀ (c : CycleInputs) (s : State),
      ((runOneCycle c s).trigger = [true, false] ↔
        c.phase = .idle ∧ c.engineConfigured = true ∧ c.engineOutstanding = false ∧ c.permit.hardwareIdle = true ∧
          (c.lastFailure = some .engineLaunchFailure ∨ c.lastFailure = some .handshakeStall →
            c.permit.operatorDecided = true)) ∧
      ((runOneCycle c s).trigger ≠ [true, false] → (runOneCycle c s).trigger = [] ∧ (runOneCycle c s).block = s ∧
        (runOneCycle c s).phase = c.phase ∧ ∃ r, (runOneCycle c s).ending = .notTriggered r)) ∧
    ∀ (c : CycleInputs) (s : State), triggerRefusal c = none →
      (awaitLow c.pollBound c.levels = .stillHigh ∨ c.engine = .running) → (runOneCycle c s).block = s
end

