-- ==== Sys2Proof/Laws/Stages.lean ====
section
/-! SUPPORT. What each stage does, said once: every bit of REMAP, the two readings of a code, and that SCALE's product
fits its width. -/

namespace Sys2Proof.Machine

theorem getLsbD_remap (m : BitMapTable) (w : RawWord) (k : Fin 16) :
    (remap m w).getLsbD k = w.getLsbD (mapPosition m k) := by
  simp [remap]

/-- Two codes are equal when their 16 logical bits are. -/
theorem code_ext {c d : Code} (h : ∀ k : Fin 16, c.getLsbD k = d.getLsbD k) : c = d :=
  BitVec.eq_of_getLsbD_eq fun i hi => h ⟨i, hi⟩

theorem mapPosition_lt (m : BitMapTable) (k : Fin 16) : mapPosition m k < 32 := (m[k]).isLt

/-- Distinct logical indices of an admitted table are read from distinct positions. -/
theorem mapPosition_injective {m : BitMapTable} (h : m.Injective) {j k : Fin 16}
    (e : mapPosition m j = mapPosition m k) : j = k := by
  by_contra hne
  exact h j k hne (BitVec.eq_of_toNat_eq e)

theorem signedOfCode_eq_toInt (c : Code) : signedOfCode c = c.toInt := by
  have hc := c.isLt
  rw [BitVec.toInt_eq_toNat_cond]
  unfold signedOfCode
  split <;> split <;> omega

theorem signedOfCode_bounds (c : Code) : -32768 ≤ signedOfCode c ∧ signedOfCode c ≤ 32767 := by
  have hc := c.isLt
  unfold signedOfCode
  split <;> omega

/-- An integer that fits 32 bits in two's complement is read back from its pattern. -/
theorem toInt_ofInt_of_fits {n : Int} (lo : -2147483648 ≤ n) (hi : n ≤ 2147483647) :
    (BitVec.ofInt 32 n).toInt = n := by
  rw [BitVec.toInt_ofInt]
  exact Int.bmod_eq_of_le (by omega) (by omega)

theorem toInt_svalOfCode (c : Code) : (svalOfCode c).toInt = signedOfCode c := by
  have h := signedOfCode_bounds c
  exact toInt_ofInt_of_fits (by omega) (by omega)

/-- The bounds of the product of a signed value in range and a reference (R84). -/
theorem product_bounds {s : Int} (lo : -32768 ≤ s) (hi : s ≤ 32767) (vref : Reference) :
    -32768 * (vref.toNat : Int) ≤ s * vref.toNat ∧ s * vref.toNat ≤ 32767 * vref.toNat :=
  ⟨Int.mul_le_mul_of_nonneg_right lo (by omega), Int.mul_le_mul_of_nonneg_right hi (by omega)⟩

theorem toInt_scale {s : Int} (lo : -32768 ≤ s) (hi : s ≤ 32767) (vref : Reference) :
    (scale s vref).toInt = s * vref.toNat := by
  have hb := product_bounds lo hi vref
  have hv := vref.isLt
  simp only [scale, Config.voff, Int.add_zero]
  exact toInt_ofInt_of_fits (by omega) (by omega)

theorem toInt_volt_respondCode (cfg : Configuration) (c : Code) :
    (respondCode cfg c).volt.toInt = c.toInt * cfg.vref.toNat := by
  have h := signedOfCode_bounds c
  rw [← signedOfCode_eq_toInt]
  exact toInt_scale h.1 h.2 _

theorem toInt_sval_respondCode (cfg : Configuration) (c : Code) :
    (respondCode cfg c).sval.toInt = c.toInt := by
  rw [← signedOfCode_eq_toInt]
  exact toInt_svalOfCode c

end Sys2Proof.Machine
end

