-- ==== Sys2Proof/Laws/State.lean ====
section
/-! SUPPORT. The fields of a state after each update, so that no later proof unfolds a record update. -/

namespace Sys2Proof.Machine

@[simp] theorem emit_cfg (r : Response) (s : State) : (emit r s).cfg = s.cfg := rfl
@[simp] theorem emit_cmdValid (r : Response) (s : State) : (emit r s).cmdValid = s.cmdValid := rfl
@[simp] theorem emit_cmdSrc (r : Response) (s : State) : (emit r s).cmdSrc = s.cmdSrc := rfl
@[simp] theorem emit_cmdDin (r : Response) (s : State) : (emit r s).cmdDin = s.cmdDin := rfl
@[simp] theorem emit_pending (r : Response) (s : State) : (emit r s).pending = s.pending := rfl
@[simp] theorem emit_responses (r : Response) (s : State) : (emit r s).responses = s.responses ++ [r] := rfl
@[simp] theorem emit_pos (r : Response) (s : State) : (emit r s).pos = s.pos + 1 := rfl
@[simp] theorem emit_rspValid (r : Response) (s : State) : (emit r s).rspValid = true := rfl
@[simp] theorem emit_rspCode (r : Response) (s : State) : (emit r s).rspCode = r.code := rfl
@[simp] theorem emit_rspSval (r : Response) (s : State) : (emit r s).rspSval = r.sval := rfl
@[simp] theorem emit_rspVolt (r : Response) (s : State) : (emit r s).rspVolt = r.volt := rfl
@[simp] theorem emit_draws (r : Response) (s : State) : (emit r s).draws = s.draws := rfl

@[simp] theorem answerRaw_cfg (w : RawWord) (s : State) : (answerRaw w s).cfg = s.cfg := rfl
@[simp] theorem answerRaw_cmdValid (w : RawWord) (s : State) : (answerRaw w s).cmdValid = s.cmdValid := rfl
@[simp] theorem answerRaw_cmdSrc (w : RawWord) (s : State) : (answerRaw w s).cmdSrc = s.cmdSrc := rfl
@[simp] theorem answerRaw_cmdDin (w : RawWord) (s : State) : (answerRaw w s).cmdDin = s.cmdDin := rfl
@[simp] theorem answerRaw_pending (w : RawWord) (s : State) : (answerRaw w s).pending = s.pending := rfl
@[simp] theorem answerRaw_responses (w : RawWord) (s : State) : (answerRaw w s).responses = s.responses ++ [respondRaw s.cfg w] := rfl
@[simp] theorem answerRaw_pos (w : RawWord) (s : State) : (answerRaw w s).pos = s.pos + 1 := rfl
@[simp] theorem answerRaw_rspValid (w : RawWord) (s : State) : (answerRaw w s).rspValid = true := rfl
@[simp] theorem answerRaw_rspCode (w : RawWord) (s : State) : (answerRaw w s).rspCode = (respondRaw s.cfg w).code := rfl
@[simp] theorem answerRaw_rspSval (w : RawWord) (s : State) : (answerRaw w s).rspSval = (respondRaw s.cfg w).sval := rfl
@[simp] theorem answerRaw_rspVolt (w : RawWord) (s : State) : (answerRaw w s).rspVolt = (respondRaw s.cfg w).volt := rfl
@[simp] theorem answerRaw_draws (w : RawWord) (s : State) : (answerRaw w s).draws = s.draws := rfl

@[simp] theorem answerCode_cfg (c : Code) (s : State) : (answerCode c s).cfg = s.cfg := rfl
@[simp] theorem answerCode_cmdValid (c : Code) (s : State) : (answerCode c s).cmdValid = s.cmdValid := rfl
@[simp] theorem answerCode_cmdSrc (c : Code) (s : State) : (answerCode c s).cmdSrc = s.cmdSrc := rfl
@[simp] theorem answerCode_cmdDin (c : Code) (s : State) : (answerCode c s).cmdDin = s.cmdDin := rfl
@[simp] theorem answerCode_pending (c : Code) (s : State) : (answerCode c s).pending = s.pending := rfl
@[simp] theorem answerCode_responses (c : Code) (s : State) : (answerCode c s).responses = s.responses ++ [respondCode s.cfg c] := rfl
@[simp] theorem answerCode_pos (c : Code) (s : State) : (answerCode c s).pos = s.pos + 1 := rfl
@[simp] theorem answerCode_rspValid (c : Code) (s : State) : (answerCode c s).rspValid = true := rfl
@[simp] theorem answerCode_rspCode (c : Code) (s : State) : (answerCode c s).rspCode = (respondCode s.cfg c).code := rfl
@[simp] theorem answerCode_rspSval (c : Code) (s : State) : (answerCode c s).rspSval = (respondCode s.cfg c).sval := rfl
@[simp] theorem answerCode_rspVolt (c : Code) (s : State) : (answerCode c s).rspVolt = (respondCode s.cfg c).volt := rfl
@[simp] theorem answerCode_draws (c : Code) (s : State) : (answerCode c s).draws = s.draws := rfl

@[simp] theorem answerAll_cfg (ws : List RawWord) (s : State) : (answerAll ws s).cfg = s.cfg := by
  induction ws generalizing s with
  | nil => rfl
  | cons w ws ih => simp [answerAll, ih]

@[simp] theorem answerAll_cmdValid (ws : List RawWord) (s : State) : (answerAll ws s).cmdValid = s.cmdValid := by
  induction ws generalizing s with
  | nil => rfl
  | cons w ws ih => simp [answerAll, ih]

@[simp] theorem answerAll_cmdSrc (ws : List RawWord) (s : State) : (answerAll ws s).cmdSrc = s.cmdSrc := by
  induction ws generalizing s with
  | nil => rfl
  | cons w ws ih => simp [answerAll, ih]

@[simp] theorem answerAll_cmdDin (ws : List RawWord) (s : State) : (answerAll ws s).cmdDin = s.cmdDin := by
  induction ws generalizing s with
  | nil => rfl
  | cons w ws ih => simp [answerAll, ih]

@[simp] theorem answerAll_pending (ws : List RawWord) (s : State) : (answerAll ws s).pending = s.pending := by
  induction ws generalizing s with
  | nil => rfl
  | cons w ws ih => simp [answerAll, ih]

@[simp] theorem answerAll_draws (ws : List RawWord) (s : State) : (answerAll ws s).draws = s.draws := by
  induction ws generalizing s with
  | nil => rfl
  | cons w ws ih => simp [answerAll, ih]

@[simp] theorem answerAll_responses (ws : List RawWord) (s : State) :
    (answerAll ws s).responses = s.responses ++ ws.map (respondRaw s.cfg) := by
  induction ws generalizing s with
  | nil => simp [answerAll]
  | cons w ws ih => simp [answerAll, ih]

@[simp] theorem answerAll_pos (ws : List RawWord) (s : State) : (answerAll ws s).pos = s.pos + ws.length := by
  induction ws generalizing s with
  | nil => rfl
  | cons w ws ih => simp [answerAll, ih]; omega

@[simp] theorem releasePorts_cfg (s : State) : (releasePorts s).cfg = s.cfg := rfl
@[simp] theorem releasePorts_cmdValid (s : State) : (releasePorts s).cmdValid = s.cmdValid := rfl
@[simp] theorem releasePorts_cmdSrc (s : State) : (releasePorts s).cmdSrc = s.cmdSrc := rfl
@[simp] theorem releasePorts_cmdDin (s : State) : (releasePorts s).cmdDin = s.cmdDin := rfl
@[simp] theorem releasePorts_pending (s : State) : (releasePorts s).pending = s.pending := rfl
@[simp] theorem releasePorts_responses (s : State) : (releasePorts s).responses = s.responses := rfl
@[simp] theorem releasePorts_pos (s : State) : (releasePorts s).pos = s.pos := rfl
@[simp] theorem releasePorts_rspValid (s : State) : (releasePorts s).rspValid = false := rfl
@[simp] theorem releasePorts_rspCode (s : State) : (releasePorts s).rspCode = Config.freeCode s.draws := rfl
@[simp] theorem releasePorts_rspSval (s : State) : (releasePorts s).rspSval = Config.freeSval s.draws := rfl
@[simp] theorem releasePorts_rspVolt (s : State) : (releasePorts s).rspVolt = Config.freeVolt s.draws := rfl
@[simp] theorem releasePorts_draws (s : State) : (releasePorts s).draws = s.draws + 1 := rfl

@[simp] theorem idle_cfg (s : State) : (idle s).cfg = s.cfg := rfl
@[simp] theorem idle_cmdValid (s : State) : (idle s).cmdValid = s.cmdValid := rfl
@[simp] theorem idle_cmdSrc (s : State) : (idle s).cmdSrc = s.cmdSrc := rfl
@[simp] theorem idle_cmdDin (s : State) : (idle s).cmdDin = s.cmdDin := rfl
@[simp] theorem idle_pending (s : State) : (idle s).pending = s.pending := rfl
@[simp] theorem idle_responses (s : State) : (idle s).responses = s.responses := rfl
@[simp] theorem idle_pos (s : State) : (idle s).pos = s.pos := rfl
@[simp] theorem idle_rspValid (s : State) : (idle s).rspValid = false := rfl
@[simp] theorem idle_rspCode (s : State) : (idle s).rspCode = Config.freeCode s.draws := rfl
@[simp] theorem idle_rspSval (s : State) : (idle s).rspSval = Config.freeSval s.draws := rfl
@[simp] theorem idle_rspVolt (s : State) : (idle s).rspVolt = Config.freeVolt s.draws := rfl
@[simp] theorem idle_draws (s : State) : (idle s).draws = s.draws + 1 := rfl

@[simp] theorem applyReset_cfg (s : State) : (s.applyReset).cfg = s.cfg := rfl
@[simp] theorem applyReset_cmdValid (s : State) : (s.applyReset).cmdValid = s.cmdValid := rfl
@[simp] theorem applyReset_cmdSrc (s : State) : (s.applyReset).cmdSrc = s.cmdSrc := rfl
@[simp] theorem applyReset_cmdDin (s : State) : (s.applyReset).cmdDin = s.cmdDin := rfl
@[simp] theorem applyReset_pending (s : State) : (s.applyReset).pending = [] := rfl
@[simp] theorem applyReset_responses (s : State) : (s.applyReset).responses = [] := rfl
@[simp] theorem applyReset_pos (s : State) : (s.applyReset).pos = 0 := rfl
@[simp] theorem applyReset_rspValid (s : State) : (s.applyReset).rspValid = false := rfl
@[simp] theorem applyReset_rspCode (s : State) : (s.applyReset).rspCode = Config.freeCode s.draws := rfl
@[simp] theorem applyReset_rspSval (s : State) : (s.applyReset).rspSval = Config.freeSval s.draws := rfl
@[simp] theorem applyReset_rspVolt (s : State) : (s.applyReset).rspVolt = Config.freeVolt s.draws := rfl
@[simp] theorem applyReset_draws (s : State) : (s.applyReset).draws = s.draws + 1 := rfl

@[simp] theorem present_cfg (w : CommandWord) (s : State) : (s.present w).cfg = (accept s).cfg := rfl
@[simp] theorem present_cmdValid (w : CommandWord) (s : State) : (s.present w).cmdValid = true := rfl
@[simp] theorem present_cmdSrc (w : CommandWord) (s : State) : (s.present w).cmdSrc = srcOf w := rfl
@[simp] theorem present_cmdDin (w : CommandWord) (s : State) : (s.present w).cmdDin = dinOf w := rfl
@[simp] theorem present_pending (w : CommandWord) (s : State) : (s.present w).pending = (accept s).pending := rfl
@[simp] theorem present_responses (w : CommandWord) (s : State) : (s.present w).responses = (accept s).responses := rfl
@[simp] theorem present_pos (w : CommandWord) (s : State) : (s.present w).pos = (accept s).pos := rfl
@[simp] theorem present_rspValid (w : CommandWord) (s : State) : (s.present w).rspValid = (accept s).rspValid := rfl
@[simp] theorem present_rspCode (w : CommandWord) (s : State) : (s.present w).rspCode = (accept s).rspCode := rfl
@[simp] theorem present_rspSval (w : CommandWord) (s : State) : (s.present w).rspSval = (accept s).rspSval := rfl
@[simp] theorem present_rspVolt (w : CommandWord) (s : State) : (s.present w).rspVolt = (accept s).rspVolt := rfl
@[simp] theorem present_draws (w : CommandWord) (s : State) : (s.present w).draws = (accept s).draws := rfl

@[simp] theorem accept_cfg (s : State) : (accept s).cfg = s.cfg := by unfold accept; split <;> rfl
@[simp] theorem accept_cmdSrc (s : State) : (accept s).cmdSrc = s.cmdSrc := by unfold accept; split <;> rfl
@[simp] theorem accept_cmdDin (s : State) : (accept s).cmdDin = s.cmdDin := by unfold accept; split <;> rfl
@[simp] theorem accept_responses (s : State) : (accept s).responses = s.responses := by unfold accept; split <;> rfl
@[simp] theorem accept_pos (s : State) : (accept s).pos = s.pos := by unfold accept; split <;> rfl
@[simp] theorem accept_rspValid (s : State) : (accept s).rspValid = s.rspValid := by unfold accept; split <;> rfl
@[simp] theorem accept_rspCode (s : State) : (accept s).rspCode = s.rspCode := by unfold accept; split <;> rfl
@[simp] theorem accept_rspSval (s : State) : (accept s).rspSval = s.rspSval := by unfold accept; split <;> rfl
@[simp] theorem accept_rspVolt (s : State) : (accept s).rspVolt = s.rspVolt := by unfold accept; split <;> rfl
@[simp] theorem accept_draws (s : State) : (accept s).draws = s.draws := by unfold accept; split <;> rfl
@[simp] theorem accept_cmdValid (s : State) : (accept s).cmdValid = false := by
  unfold accept
  split
  · rfl
  · simp_all

/-- With no transfer on the port, acceptance changes nothing. -/
theorem accept_of_not_valid {s : State} (h : s.cmdValid = false) : accept s = s := by simp [accept, h]

/-- A transfer on the port joins the end of the queue. -/
theorem accept_pending (s : State) :
    (accept s).pending = s.pending ++ (if s.cmdValid then [portWord s] else []) := by
  unfold accept
  split <;> simp

@[simp] theorem accept_accept (s : State) : accept (accept s) = accept s :=
  accept_of_not_valid (accept_cmdValid s)

end Sys2Proof.Machine
end

