-- ==== Sys2Proof/Laws/Ops.lean ====
section
/-! SUPPORT. What fetching, answering and stepping can do, said once. -/

namespace Sys2Proof.Machine

/-- Fetching finds a command exactly when one is accepted, and takes the oldest. -/
theorem fetch_eq (s : State) :
    fetch s = none ∧ (accept s).pending = [] ∨
      ∃ w rest, (accept s).pending = w :: rest ∧ fetch s = some (w, { accept s with pending := rest }) := by
  unfold fetch
  cases h : (accept s).pending with
  | nil => exact .inl ⟨rfl, rfl⟩
  | cons w rest => exact .inr ⟨w, rest, rfl, rfl⟩

/-- A word at the head of the queue is the one fetched, whatever stands on the port. -/
theorem fetch_cons (w : CommandWord) (s : State) :
    fetch { s with pending := w :: s.pending } = some (w, accept s) := by
  obtain ⟨cfg, valid, _⟩ := s
  cases valid <;> rfl

/-- A decoded command word is answered by its one response. -/
theorem exec_decodeCommand (w : CommandWord) (s : State) :
    exec (decodeCommand w) s = .next (emit (respondWord s.cfg w) s) := by
  unfold decodeCommand respondWord
  split <;> rfl

/-- Everything a step can do. -/
theorem step_cases (s : State) :
    (∃ w rest, (accept s).pending = w :: rest ∧
        step s = .next (emit (respondWord s.cfg w) { accept s with pending := rest })) ∨
      ((accept s).pending = [] ∧ step s = .next (idle (accept s))) := by
  obtain ⟨hf, hp⟩ | ⟨w, rest, hp, hf⟩ := fetch_eq s
  · exact .inr ⟨hp, by simp [step, hf]⟩
  · refine .inl ⟨w, rest, hp, ?_⟩
    simp [step, hf, exec_decodeCommand]

/-- A run of one step more: the step, then the rest of the run. -/
theorem run_succ {s t : State} (h : step s = .next t) (k : Nat) :
    Host.Core.run Sys2Proof.core (k + 1) s = Host.Core.run Sys2Proof.core k t := by
  have h' : Sys2Proof.core.step s = .next t := h
  simp only [Host.Core.run, h']

/-- After an emission the response ports show the record. -/
theorem readPorts_emit (r : Response) (s : State) : (emit r s).readPorts = some r := rfl

/-- After a non-empty sequence of answers the response ports show the last one. -/
theorem readPorts_answerAll (ws : List RawWord) (w : RawWord) (s : State) :
    (answerAll (ws ++ [w]) s).readPorts = some (respondRaw s.cfg w) := by
  induction ws generalizing s with
  | nil => rfl
  | cons v ws ih => simpa [answerAll] using ih (answerRaw v s)

end Sys2Proof.Machine
end

