-- ==== Sys2Proof/Laws/Cycle.lean ====
section
/-! SUPPORT. What the host-side functions can answer, said once. -/

namespace Sys2Proof.Machine

/-- The text of fields that hold no comma, joined by commas, splits into those fields. -/
theorem splitFields_field_comma (f rest : List Char) (hf : ∀ c ∈ f, c.toNat ≠ 44) :
    splitFields (f ++ ',' :: rest) = f :: splitFields rest := by
  induction f with
  | nil =>
    simp only [List.nil_append, splitFields]
    cases h : splitFields rest with
    | nil => cases rest <;> simp_all [splitFields]; split at h <;> (try split at h) <;> simp_all
    | cons g gs => simp
  | cons c f ih =>
    have hc := hf c (by simp)
    simp only [List.cons_append, splitFields, ih fun d hd => hf d (by simp [hd])]
    simp [hc]

theorem splitFields_field (f : List Char) (hf : ∀ c ∈ f, c.toNat ≠ 44) : splitFields f = [f] := by
  induction f with
  | nil => rfl
  | cons c f ih =>
    have hc := hf c (by simp)
    simp only [splitFields, ih fun d hd => hf d (by simp [hd])]
    simp [hc]

/-- A list of fields has RawWords exactly when every field has one, in the same order. -/
theorem rawWordsOfFields_eq_some (fs : List (List Char)) (ws : List RawWord) :
    rawWordsOfFields fs = some ws ↔ fs.map fieldRawWord = ws.map some := by
  induction fs generalizing ws with
  | nil => cases ws <;> simp [rawWordsOfFields]
  | cons f fs ih =>
    cases hf : fieldRawWord f with
    | none => cases ws <;> simp [rawWordsOfFields, hf]
    | some w =>
      cases hr : rawWordsOfFields fs with
      | none =>
        simp only [rawWordsOfFields, hf, hr]
        cases ws with
        | nil => simp
        | cons v vs =>
          have := ih vs
          simp [hr] at this
          simp [hf, this]
      | some us =>
        simp only [rawWordsOfFields, hf, hr]
        cases ws with
        | nil => simp
        | cons v vs =>
          have := ih vs
          rw [hr] at this
          simp [hf, ← this]

/-- A text that does not parse gives one error kind and no other. -/
theorem parseText_error {count : Nat} {text : List Char} {f : Fault} (h : parseText count text = .error f) :
    f = .malformedSampleData := by
  unfold parseText at h
  split at h
  · split at h
    · cases h
    · cases h; rfl
  · cases h; rfl

/-- A text that parses gives the configured, non-zero number of RawWords. -/
theorem parseText_ok {count : Nat} {text : List Char} {ws : List RawWord} (h : parseText count text = .ok ws) :
    rawWordsOfFields (fieldsOf text) = some ws ∧ ws.length = count ∧ ws ≠ [] := by
  unfold parseText at h
  split at h
  · split at h
    · cases h; exact ⟨by assumption, by assumption⟩
    · cases h
  · cases h

/-- One field that is no RawWord leaves no word of the whole list (R104, R123). -/
theorem rawWordsOfFields_eq_none {fs : List (List Char)} {f : List Char} (hf : f ∈ fs) (h : fieldRawWord f = none) :
    rawWordsOfFields fs = none := by
  induction fs with
  | nil => simp at hf
  | cons g gs ih =>
    rcases List.mem_cons.mp hf with rfl | hf
    · simp [rawWordsOfFields, h]
    · simp [rawWordsOfFields, ih hf]

/-- Words are acquired exactly from the text of an exited engine that parses, in a way of exiting this host takes. -/
theorem acquire_eq_ok {count : Nat} {takes : Bool} {run : EngineRun} {ws : List RawWord} :
    acquire count takes run = some (.ok ws) ↔ ∃ status text, run = .exited status text ∧
      (status = .abnormal → takes = true) ∧ parseText count text = .ok ws := by
  cases run with
  | notStarted => simp [acquire]
  | running => simp [acquire]
  | exited status text => cases status <;> cases takes <;> simp [acquire]

/-- An acquisition fails exactly in two ways: the engine did not start, or it exited with a text that does not parse or
in a way this host does not take. -/
theorem acquire_eq_error {count : Nat} {takes : Bool} {run : EngineRun} {f : Fault} :
    acquire count takes run = some (.error f) ↔
      (f = .engineLaunchFailure ∧ run = .notStarted) ∨
        (f = .malformedSampleData ∧ ∃ status text, run = .exited status text ∧
          (parseText count text = .error .malformedSampleData ∨ (status = .abnormal ∧ takes = false))) := by
  cases run with
  | notStarted => cases f <;> simp [acquire]
  | running => simp [acquire]
  | exited status text =>
    cases hp : parseText count text with
    | ok ws => cases status <;> cases takes <;> simp [acquire, hp, eq_comm]
    | error g =>
      cases parseText_error hp
      cases status <;> cases takes <;> simp [acquire, hp, eq_comm]

/-- Everything the host needs before it may pulse the trigger. -/
theorem triggerRefusal_eq_none {c : CycleInputs} :
    triggerRefusal c = none ↔ c.phase = .idle ∧ c.engineConfigured = true ∧ c.engineOutstanding = false ∧
      c.permit.hardwareIdle = true ∧ (c.lastFailure = some .engineLaunchFailure ∨ c.lastFailure = some .handshakeStall →
        c.permit.operatorDecided = true) := by
  rcases c with ⟨phase, conf, last, out, ⟨hw, op⟩, _, _, _, _, _⟩
  cases phase <;> cases conf <;> cases out <;> cases hw <;> cases op <;> rcases last with _ | f <;>
    (try cases f) <;> simp [triggerRefusal]

end Sys2Proof.Machine
end

