-- ==== Sys2Proof/Laws/Decode.lean ====
section
/-! SUPPORT. The fields of a packed command word. -/

namespace Sys2Proof

/-- A bit of `{SRC, DIN}`: `DIN`'s below position 32, `SRC` at it. -/
theorem getLsbD_packCommand (src : Bool) (din : BitVec 32) (i : Nat) :
    (packCommand src din).getLsbD i = if i < 32 then din.getLsbD i else (decide (i = 32) && src) := by
  rw [packCommand, BitVec.getLsbD_append]
  split
  · rfl
  · rw [BitVec.getLsbD_ofBool]
    congr 1
    exact decide_eq_decide.mpr (by omega)

theorem srcOf_packCommand (src : Bool) (din : BitVec 32) : srcOf (packCommand src din) = src := by
  rw [srcOf, getLsbD_packCommand]
  simp

theorem dinOf_packCommand (src : Bool) (din : BitVec 32) : dinOf (packCommand src din) = din := by
  refine BitVec.eq_of_getLsbD_eq fun i hi => ?_
  rw [dinOf, BitVec.getLsbD_extractLsb', Nat.zero_add, getLsbD_packCommand]
  simp [hi]

theorem packCommand_fields (w : CommandWord) : packCommand (srcOf w) (dinOf w) = w := by
  refine BitVec.eq_of_getLsbD_eq fun i hi => ?_
  rw [getLsbD_packCommand, srcOf, dinOf, BitVec.getLsbD_extractLsb', Nat.zero_add]
  split
  · simp [*]
  · have h : i = 32 := by omega
    simp [h]

end Sys2Proof
end

