-- ==== Sys2Proof/Laws/PerInstr.lean ====
section
/-! SUPPORT. Facts about every instruction as syntax. Family WordCount: an operation of the table is written with as
many command words as it stands for commands (R64, R65, R66: no prefix and no second word). -/

namespace Sys2Proof.Laws.WordCount

/-- How many commands an operation stands for. -/
def wordCount : Instr → Nat
  | .decode _ => 1
  | .convert _ => 1
  | .remap _ => 1
  | .tcdec _ => 1
  | .scale _ => 1
  | .decodeSeq ws => ws.length

/-- The encoder writes one command word for each command the operation stands for. -/
def Statement (i : Instr) : Prop :=
  (encodeWords i).length = wordCount i ∧ i.expand.length = wordCount i

theorem decode (din : RawWord) : Statement (.decode din) := ⟨rfl, rfl⟩

theorem convert (din : BitVec 32) : Statement (.convert din) := ⟨rfl, rfl⟩

theorem remap (w : RawWord) : Statement (.remap w) := ⟨rfl, rfl⟩

theorem tcdec (c : Code) : Statement (.tcdec c) := ⟨rfl, rfl⟩

theorem scale (c : Code) : Statement (.scale c) := ⟨rfl, rfl⟩

theorem decodeSeq (ws : List RawWord) : Statement (.decodeSeq ws) :=
  ⟨List.length_map .., List.length_map ..⟩

end Sys2Proof.Laws.WordCount
end

