-- ==== Sys2Proof/Tests/Slice0.lean ====
section
/-! SUPPORT. The model's own tests. Every expected value is from spec/95_test_vectors.md or a rule's worked example. The
theorems named witness_* show a concrete case that meets the hypotheses of a statement. -/

namespace Sys2Proof.Tests

open Sys2Proof.Machine

/-! ### Well-formedness: a term each check accepts and one it refuses -/

theorem test_convert_is_a_command : Instr.wellFormed (.convert 0xFFFF8000#32) = true := by decide

theorem test_pseudo_operations_have_no_word_of_their_own :
    Instr.wellFormed (.remap 1#32) = false ∧ Instr.wellFormed (.tcdec 1#16) = false ∧
      Instr.wellFormed (.scale 1#16) = false ∧ Instr.wellFormed (.decodeSeq [1#32]) = false := by decide

theorem test_driven_as_written :
    Instr.drivenAsWritten (.convert 0x00008000#32) = true ∧
      Instr.drivenAsWritten (.convert 0x00018000#32) = false := by decide

/-- 95 section 1: MAP_X is injective, MAP_BAD has entries 14 and 15 equal. -/
theorem test_tables : mapX.Injective ∧ mapId.Injective ∧ mapHi.Injective ∧ mapRev.Injective ∧ ¬mapBad.Injective := by
  decide

/-! ### Decoding: words written out from the encodings -/

/-- 95 section 3.5, `DECODE 0x48103608`: bit 32 is 0. -/
theorem test_decode_word : decodeCommand 0b0_0100_1000_0001_0000_0011_0110_0000_1000#33 = .decode 0x48103608#32 := by decide

/-- 95 section 3.4, `DIN = 0xDEAD0001`, `SRC` = 1. -/
theorem test_convert_word : decodeCommand 0b1_1101_1110_1010_1101_0000_0000_0000_0001#33 = .convert 0xDEAD0001#32 := by decide

/-- The pseudo-operations' words are those of their commands (30 R65): `TCDEC 0x8000` is `0x100008000`. -/
theorem test_pseudo_words :
    encodeWords (.tcdec 0x8000#16) = [0x100008000#33] ∧ encodeWords (.scale 0x7FFF#16) = [0x100007FFF#33] ∧
      encodeWords (.remap 0x12345678#32) = [0x012345678#33] ∧
      encodeWords (.decodeSeq [1#32, 2#32, 3#32]) = [0x000000001#33, 0x000000002#33, 0x000000003#33] := by decide

/-- 30 R64: nine hexadecimal digits of `0x048103608`. -/
theorem test_hex_digits : hexDigits 0x048103608#33 = [0, 4, 8, 1, 0, 3, 6, 0, 8] := by decide

/-- 30 R64: a written CONVERT of 65536 is none. -/
theorem test_written_lines : assemble (.convertLine 0xA5C3) = some (.convert 0x0000A5C3#32) ∧
    assemble (.convertLine 65536) = none ∧ assemble (.decodeLine 4294967296) = none := by decide

theorem test_wide_number_is_refused : decodeTableWord 40 0x200000000 = none ∧
    decodeTableWord 40 0x1FFFFFFFF = some (.convert 0xFFFFFFFF#32) := by decide

/-! ### The stages -/

/-- 95 section 3.1, the row 0x12345678. -/
theorem test_remap_mixed_word : remap mapId 0x12345678#32 = 0x5678#16 ∧ remap mapX 0x12345678#32 = 0xC4A3#16 ∧
    remap mapHi 0x12345678#32 = 0x1234#16 ∧ remap mapRev 0x12345678#32 = 0x1E6A#16 := by decide

/-- 95 section 3.1, the row 0x80000000: unmapped, logical 4, logical 15, unmapped. -/
theorem test_remap_top_bit : remap mapId 0x80000000#32 = 0#16 ∧ remap mapX 0x80000000#32 = 0x0010#16 ∧
    remap mapHi 0x80000000#32 = 0x8000#16 ∧ remap mapRev 0x80000000#32 = 0#16 := by decide

/-- 95 section 3.1: SCATTER with MAP_X. -/
theorem test_scatter : scatter 0xA5C3#16 mapX = 0x48103608#32 ∧ scatter 0x1234#16 mapX = 0x80820044#32 := by decide

/-- 95 section 3.2. -/
theorem test_tcdec_boundary : svalOfCode 0x7FFF#16 = 0x00007FFF#32 ∧ svalOfCode 0x8000#16 = 0xFFFF8000#32 ∧
    signedOfCode 0xC000#16 = -16384 := by decide

/-- 95 section 3.3, the columns 2500 and 65535. -/
theorem test_scale_negative : scale (-23101) 2500#16 = 0xFC8EC44C#32 ∧ scale (-23101) 65535#16 = 0xA5C35A3D#32 ∧
    scale (-32767) 65535#16 = 0x80017FFF#32 ∧ scale 32767 2500#16 = 0x04E1F63C#32 := by decide

/-- 95 section 1: `cfg_map` of MAP_X and of MAP_REV. -/
theorem test_table_of_port : tableOfPort 0x617D78245BA34DFC4543#80 = mapX ∧ tableOfPort 0x00443214C74254B635CF#80 = mapRev := by
  decide

/-- 95 program P3, the 80-bit record of position 2. -/
theorem test_record : record ⟨0xA5C3#16, 0xFFFFA5C3#32, 0xFC8EC44C#32⟩ = 0xA5C3FFFFA5C3FC8EC44C#80 := by decide

/-- 95 program P2: the bring-up check, and its false variant with entries 3 and 4 exchanged. -/
theorem test_bring_up : bringUpCheck mapX mapX = true ∧
    bringUpCheck mapX #v[3, 10, 17, 31, 24, 6, 13, 20, 27, 2, 9, 16, 23, 30, 5, 12] = false := by decide

/-! ### Steps -/

/-- The next state's last response, and the port's. -/
def lastResponse : Host.Outcome State Fault Refusal → Option Response
  | .next t => if t.readPorts = t.responses.getLast? then t.readPorts else none
  | _ => none

/-- What the host reads after an operation that completes. -/
def readAfter (i : Instr) (s : State) : Option Reading :=
  match exec i s with
  | .next t => reading i t
  | _ => none

/-- 95 program P3, position 2, one step from reset with the configuration named. -/
theorem test_step_decode : lastResponse (step ((resetWith mapX 2500#16).withFetchWord 40 0x07E7CFF9B)) =
    some ⟨0xA5C3#16, 0xFFFFA5C3#32, 0xFC8EC44C#32⟩ := by decide

/-- 95 program P3, position 1, presented on the command port. -/
theorem test_step_convert : lastResponse (step ((resetWith mapX 2500#16).present 0x1FFFF8000#33)) =
    some ⟨0x8000#16, 0xFFFF8000#32, 0xFB1E0000#32⟩ := by decide

/-- 95 section 3.5: the extreme responses, MAP_HI with the largest reference. -/
theorem test_step_decode_extreme : lastResponse (step ((resetWith mapHi 65535#16).withFetchWord 40 0x080000000)) =
    some ⟨0x8000#16, 0xFFFF8000#32, 0x80008000#32⟩ := by decide

/-- Whether an outcome is a next state that has answered `n` commands. -/
def answered (n : Nat) : Host.Outcome State Fault Refusal → Bool
  | .next t => t.pos == n
  | _ => false

/-- Both commands run as the first after reset, whatever table and reference the board has (70 R151, command 0). -/
theorem test_first_step_after_reset : answered 1 (step (State.reset.withFetchWord 40 0x048103608)) = true ∧
    answered 1 (step (State.reset.withFetchWord 40 0x1FFFF8000)) = true ∧ answered 0 (step State.reset) = true := by decide

/-- The oldest command is answered first: a word that waits goes before the word on the port (20 R35). -/
theorem test_step_oldest_first :
    lastResponse (step (({ resetWith mapId 1#16 with pending := [0x000000005#33] }).present 0x100000009#33)) =
      some ⟨5#16, 5#32, 5#32⟩ := by decide

/-- 40 R70, 30 R65. -/
theorem test_remap : readAfter (.remap 0x48103608#32) (resetWith mapX 4096#16) = some (.code 0xA5C3#16) := by decide

/-- 41 R80. -/
theorem test_tcdec : readAfter (.tcdec 0xA5C3#16) (resetWith mapX 4096#16) = some (.sval 0xFFFFA5C3#32) := by decide

/-- 42 R90. -/
theorem test_scale : readAfter (.scale 0xA5C3#16) (resetWith mapX 4096#16) = some (.volt 0xFA5C3000#32) := by decide

/-- 95 program P1, the column MAP_REV. -/
theorem test_decode_seq : readAfter (.decodeSeq [1#32, 2#32, 3#32]) (resetWith mapRev 4096#16) =
    some (.samples [0xF8000000#32, 0x04000000#32, 0xFC000000#32]) := by decide

/-- 43 R111. -/
theorem test_decode_seq_empty : readAfter (.decodeSeq []) (resetWith mapRev 4096#16) = some (.samples []) := by decide

/-- Whether construction refuses for the table (R11, U1). -/
def refusedTable (cfgMap : BitVec 80) : Bool :=
  match State.construct cfgMap 4096#16 with
  | .refused .mapNotInjective => true
  | _ => false

/-- 95 section 3.6: `cfg_map` of MAP_BAD is that of MAP_ID with 14 in entry 15. -/
theorem test_construct : refusedTable 0x739AC5A928398A418820#80 = true ∧ refusedTable 0x7B9AC5A928398A418820#80 = false := by
  decide

/-! ### The host's cycle (95 program P4 and section 3.6) -/

/-- A cycle's inputs with the given readings of the completion line, sample count and engine run. -/
def cycle (levels : List Bool) (count : Nat) (engine : EngineRun) : CycleInputs :=
  { phase := .idle, engineConfigured := true, lastFailure := none, engineOutstanding := false, permit := ⟨true, false⟩, pollBound := none, levels := levels, sampleCount := count, takesAbnormalExit := false, engine := engine }

/-- P4 case a, its first and last sample: MAP_ID, VREF 4096. -/
theorem test_cycle_good : (runOneCycle (cycle [true, true, false] 2 (.exited .normal "32768,32767".toList)) (resetWith mapId 4096#16)).ending =
    .handed [0xF8000000#32, 0x07FFF000#32] := by decide

/-- P4 case b. -/
theorem test_cycle_failed : (runOneCycle (cycle [false] 4 (.exited .normal "32768,abc,0,32767".toList)) (resetWith mapId 4096#16)).ending =
    .failed .malformedSampleData := by decide

/-- P4 case c. -/
theorem test_cycle_stalled : (runOneCycle (cycle [true, true, true] 4 .notStarted) (resetWith mapId 4096#16)).ending = .waiting := by
  decide

/-- Section 3.6: an integer above 4294967295, the nearest accepted text, a negative integer, and the empty text. -/
theorem test_texts : parseText 3 "1,4294967296,3".toList = .error .malformedSampleData ∧
    parseText 3 "1,4294967295,3".toList = .ok [1#32, 0xFFFFFFFF#32, 3#32] ∧
    parseText 3 "1,-2,3".toList = .error .malformedSampleData ∧ parseText 0 [] = .error .malformedSampleData := by decide

/-! ### Witnesses: the hypotheses of the statements are met -/

theorem witness_command_words : Instr.wellFormed (.decode 0xFFFFFFFF#32) = true ∧
    0x0FFFFFFFF#33 &&& 0x100000000#33 = 0x000000000#33 ∧ 0x1FFFF8000#33 &&& 0x100000000#33 = 0x100000000#33 ∧
    srcOf 0x0FFFFFFFF#33 = false ∧ srcOf 0x100000000#33 = true := by decide

theorem witness_oldest_command : (accept ((resetWith mapX 1#16).present 0x1FFFFFFFF#33)).pending = [0x1FFFFFFFF#33] ∧
    0x1FFFFFFFF < 2 ^ 33 := by decide

theorem witness_no_command : (resetWith mapX 1#16).cmdValid = false ∧ (resetWith mapX 1#16).pending = [] := by decide

theorem witness_transfer : ((resetWith mapX 1#16).present 0x100000000#33).cmdValid = true := by decide

theorem witness_decode_corners : (resetWith mapX 4096#16).cfg.map = mapX ∧ (resetWith mapX 4096#16).cfg.vref = 4096#16 ∧
    (∀ k : Fin 16, (0x366CC993#32).getLsbD (mapPosition mapX k) = false) ∧ mapX.Injective ∧
    0x00001000#32 = oneHot (mapPosition mapX 15) := by decide

theorem witness_tables_differ : (resetWith mapX 4096#16).cfg.vref = (resetWith mapId 4096#16).cfg.vref ∧
    (resetWith mapX 4096#16).cfg ≠ (resetWith mapId 4096#16).cfg := by decide

theorem witness_codes_of_both_signs : 32768 ≤ (0x8000#16).toNat ∧ (0x7FFF#16).toNat < 32768 := by decide

theorem witness_signed_range : (-32768 : Int) ≤ -32768 ∧ (-32768 : Int) ≤ 32767 ∧ (32767 : Int) ≤ 32767 := by decide

theorem witness_sequence : [1#32, 2#32][1]? = some 2#32 ∧ [1#32, 2#32] ≠ [] := by decide

theorem witness_stream : ({ resetWith mapX 1#16 with pending := [0x100000001#33, 5#33] }).cmdValid = false ∧
    ({ resetWith mapX 1#16 with pending := [0x100000001#33, 5#33] }).pending[1]? = some 5#33 := by decide

/-- Two different states with one configuration. -/
theorem witness_same_configuration : (resetWith mapX 1#16).cfg = ((resetWith mapX 1#16).present 7#33).cfg ∧
    (resetWith mapX 1#16).cmdValid ≠ ((resetWith mapX 1#16).present 7#33).cmdValid := by decide

theorem witness_identity_table : (resetWith mapId 1#16).cfg.map = mapId := by decide

/-- 95 section 3.1: words that differ only at positions MAP_X does not map. -/
theorem witness_unmapped_bits : 0x48103608#32 ≠ 0x7E7CFF9B#32 ∧
    ∀ k : Fin 16, (0x48103608#32).getLsbD (mapPosition mapX k) = (0x7E7CFF9B#32).getLsbD (mapPosition mapX k) := by decide

theorem witness_equal_entries : (14 : Fin 16) ≠ 15 ∧ mapPosition mapBad 14 = mapPosition mapBad 15 := by decide

theorem witness_preimages : ∀ k : Fin 16,
    (0x7E7CFF9B#32).getLsbD (mapPosition mapX k) = (scatter 0xA5C3#16 mapX).getLsbD (mapPosition mapX k) := by decide

theorem witness_low_half_table : mapRev.Injective ∧ ∀ k : Fin 16, mapPosition mapRev k < 16 := by decide

theorem witness_bring_up : bringUpCheck mapX mapX = true := by decide

theorem witness_references : 0 < (1#16).toNat ∧ 65535#16 ≠ 0#16 := by decide

/-- Adjacent codes, across the sign change and at the top. -/
theorem witness_adjacent_codes : (0x0000#16).toInt = (0xFFFF#16).toInt + 1 ∧ (0x7FFF#16).toInt = (0x7FFE#16).toInt + 1 := by
  decide

theorem witness_equal_port_fields : (14 : Fin 16) ≠ 15 ∧
    (0x739AC5A928398A418820#80).extractLsb' (5 * (14 : Fin 16).val) 5 = (0x739AC5A928398A418820#80).extractLsb' (5 * (15 : Fin 16).val) 5 := by
  decide

theorem witness_distinct_port_fields : ∀ j k : Fin 16, j ≠ k →
    (0x617D78245BA34DFC4543#80).extractLsb' (5 * j.val) 5 ≠ (0x617D78245BA34DFC4543#80).extractLsb' (5 * k.val) 5 := by decide

theorem witness_construction : ∃ s, State.construct 0x617D78245BA34DFC4543#80 4096#16 = .next s :=
  ⟨_, if_pos (by decide)⟩

/-- A state that has answered one command and has another on its port. -/
def busy : State := answerRaw 0x48103608#32 ((resetWith mapX 4096#16).present 0x100008000#33)

theorem witness_invariant : Inv busy := ⟨by decide, by decide, fun _ => by decide, by decide⟩

theorem witness_next_states : (∃ t, step busy = .next t) ∧ ∃ t, exec (.decode 0x366CC993#32) busy = .next t :=
  ⟨⟨_, rfl⟩, ⟨_, rfl⟩⟩

theorem witness_run : ∃ t, Host.Core.run core 1 ((resetWith mapX 4096#16).present 0x048103608#33) = .next t := ⟨_, rfl⟩

theorem witness_handshake : handshakeNext .awaitingCompletion (.readLevel false) = some .done := by decide

theorem witness_phases : triggerRefusal (cycle [true, true] 1 .running) = none ∧ false ∉ [true, true] ∧
    triggerRefusal (cycle [true, false, true] 1 .running) = none ∧ false ∈ [true, false, true] := by decide

theorem witness_numerals : ∀ f ∈ [['0'], ['4', '2', '9', '4', '9', '6', '7', '2', '9', '5']],
    isPlainNumeral f = true ∧ numeralValue f ≤ 4294967295 := by decide

theorem witness_out_of_range : ['-', '2'] ∈ fieldsOf "1,-2,3".toList ∧ fieldInteger ['-', '2'] = some (-2) ∧
    "4294967296".toList ∈ fieldsOf "1,4294967296,3".toList ∧ fieldInteger "4294967296".toList = some 4294967296 := by decide

theorem witness_empty_middle_field : [] ∈ fieldsOf "1,,3".toList ∧ fieldInteger [] = none ∧
    ['1', '-', '2'] ∈ fieldsOf "1,1-2,3".toList := by decide

theorem witness_bad_token : ['x'] ∈ splitFields "1,x,3".toList ∧ isDigit 'x' = false ∧ isBlank 'x' = false ∧ 'x' ≠ '+' ∧
    'x' ≠ '-' := by decide

theorem witness_wrong_count : (fieldsOf "1,2,3".toList).length ≠ 4 := by decide

/-- A run that is over, after more steps than it has commands. -/
theorem witness_finished_run : ∃ t, Host.Core.run core 2 ({ resetWith mapX 1#16 with pending := [5#33] }) = .next t ∧
    t.pending = [] := ⟨_, rfl, rfl⟩

theorem witness_failures (s : State) :
    (runOneCycle (cycle [false] 1 .notStarted) s).ending = .failed .engineLaunchFailure ∧
      (runOneCycle (cycle [false] 1 (.exited .normal ['x'])) s).ending = .failed .malformedSampleData ∧
      (runOneCycle { cycle [true, true] 1 .running with pollBound := some 1 } s).ending = .failed .handshakeStall :=
  ⟨rfl, rfl, rfl⟩

theorem witness_good_cycle : triggerRefusal (cycle [true, false] 3 (.exited .normal "1,2,3".toList)) = none ∧
    awaitLow none [true, false] = .low ∧
    acquire 3 false (.exited .normal "1,2,3".toList) = some (.ok [1#32, 2#32, 3#32]) := by decide

theorem witness_abnormal_exit : acquire 3 true (.exited .abnormal "1,2,3".toList) = some (.ok [1#32, 2#32, 3#32]) := by decide

/-- 60 R130, ruling C8, 95 P4: the cycle ends at DONE, IDLE if the orchestrator loops. -/
theorem test_return_to_idle (s : State) :
    (runOneCycle (cycle [false] 1 .notStarted) s).phase = .done ∧
      afterCycle false (runOneCycle (cycle [false] 1 .notStarted) s) = .done ∧
      afterCycle true (runOneCycle (cycle [false] 1 .notStarted) s) = .idle ∧
      afterCycle true (runOneCycle (cycle [true] 1 .running) s) = .awaitingCompletion := ⟨rfl, rfl, rfl, rfl⟩

/-- Each reason not to pulse the trigger (R130, R134, R153, R157, R161), the idle hardware after no failure and after any. -/
theorem witness_triggers :
    triggerRefusal { cycle [] 1 .running with phase := .done } = some .handshakeNotIdle ∧
      triggerRefusal { cycle [] 1 .running with engineConfigured := false } = some .engineNotConfigured ∧
      triggerRefusal { cycle [] 1 .running with engineOutstanding := true } = some .engineNotReaped ∧
      triggerRefusal { cycle [] 1 .running with permit := ⟨false, true⟩ } = some .hardwareNotConfirmedIdle ∧
      triggerRefusal { cycle [] 1 .running with permit := ⟨false, true⟩, lastFailure := some .engineLaunchFailure } =
        some .hardwareNotConfirmedIdle ∧
      triggerRefusal { cycle [] 1 .running with lastFailure := some .engineLaunchFailure } = some .operatorHasNotDecided ∧
      triggerRefusal { cycle [] 1 .running with lastFailure := some .handshakeStall } = some .operatorHasNotDecided ∧
      triggerRefusal { cycle [] 1 .running with lastFailure := some .malformedSampleData } = none := by decide

theorem witness_waiting_or_blocked : triggerRefusal (cycle [true] 1 .running) = none ∧
    awaitLow none [true] = .stillHigh := by decide

theorem witness_written_lines : (4294967295 : Nat) ≤ 4294967295 ∧ (65535 : Nat) ≤ 65535 ∧ (4294967295 : Nat) < 4294967296 ∧
    (65535 : Nat) < 65536 ∧ (∀ n ∈ [0, 4294967295], n ≤ 4294967295) ∧
    ∃ n ∈ [1, 4294967296], (4294967295 : Nat) < n := by
  refine ⟨by decide, by decide, by decide, by decide, by decide, 4294967296, by decide, by decide⟩

end Sys2Proof.Tests
end

section
/-! PROOFS. The step is `exec` of the oldest command (00_scope R5, R19). -/

namespace Sys2Proof.Machine

/-- The command fetched is the head of the queue that acceptance leaves. -/
theorem fetch_of_pending {s : State} {w : CommandWord} {rest : List CommandWord}
    (h : (accept s).pending = w :: rest) : fetch s = some (w, { accept s with pending := rest }) := by
  simp [fetch, h]

/-- A step with a fetched command executes what its word decodes to. -/
theorem step_of_fetch {s t : State} {w : CommandWord} (h : fetch s = some (w, t)) :
    step s = exec (decodeCommand w) t := by
  simp [step, h]

/-- A command word placed in at least as many bits as a command has becomes the head of the queue. -/
theorem withFetchWord_of_lt (s : State) {nbits n : Nat} (hbits : 33 ≤ nbits) (hn : n < 2 ^ 33) :
    s.withFetchWord nbits n = { s with pending := BitVec.ofNat 33 n :: s.pending } := by
  have hfit : n < 2 ^ nbits := hn.trans_le (Nat.pow_le_pow_right two_pos hbits)
  rw [State.withFetchWord, Nat.mod_eq_of_lt hfit, if_pos hn]

/-- Settles O6: the fetch takes the oldest word of the queue, and a placed word is the oldest whatever stands on the
port. -/
theorem stepRunsTheOldestCommand : Obligations.StepRunsTheOldestCommand := by
  refine ⟨fun s w rest hp => step_of_fetch (fetch_of_pending hp), fun s n hn => ?_⟩
  rw [withFetchWord_of_lt s (by decide) hn]
  exact step_of_fetch (fetch_cons _ s)

end Sys2Proof.Machine
end

section
/-! PROOFS. What the state keeps (10_state): the invariant and its preservation by a step, and the state after reset. -/

namespace Sys2Proof.Machine

/-- While `rsp_valid` is 0 nothing can be read (R16). -/
theorem readPorts_of_not_valid {s : State} (h : s.rspValid = false) : s.readPorts = none := by
  simp [State.readPorts, h]

@[simp] theorem readPorts_accept (s : State) : (accept s).readPorts = s.readPorts := by
  simp [State.readPorts]

/-- Every command word is answered as R16, R54 and R84 ask. -/
theorem respondWord_wellAnswered (cfg : Configuration) (w : CommandWord) :
    (respondWord cfg w).WellAnswered cfg := by
  have hcode (c : Code) : (respondCode cfg c).WellAnswered cfg :=
    ⟨toInt_sval_respondCode cfg c, toInt_volt_respondCode cfg c⟩
  rw [respondWord]
  split
  · exact hcode _
  · exact hcode _

/-- Emitting a well-answered response keeps the invariant: the position and the stream grow by one together, and the
ports show what was appended (R16, R18). -/
theorem inv_emit {s : State} {r : Response} (h : Inv s) (hr : r.WellAnswered s.cfg) : Inv (emit r s) where
  table := h.table
  position := by simp [PositionCountsResponses, h.position]
  ports := fun _ => by simp [readPorts_emit]
  answers := fun q hq => by
    obtain hold | rfl : q ∈ s.responses ∨ q = r := by simpa using hq
    · exact h.answers q hold
    · exact hr

/-- With `rsp_valid` 0 the ports owe nothing, so releasing them keeps the invariant. -/
theorem inv_releasePorts {s : State} (h : Inv s) : Inv (releasePorts s) where
  table := h.table
  position := h.position
  ports := fun hv => by simp at hv
  answers := h.answers

theorem inv_accept {s : State} (h : Inv s) : Inv (accept s) where
  table := by simpa [TableAdmitted] using h.table
  position := by simpa [PositionCountsResponses] using h.position
  ports := by simpa [PortsShowLast] using h.ports
  answers := by simpa [AllWellAnswered] using h.answers

/-- The invariant does not speak of the queue. -/
theorem inv_with_pending {s : State} (h : Inv s) (q : List CommandWord) : Inv { s with pending := q } :=
  ⟨h.table, h.position, h.ports, h.answers⟩

/-- Settles O41: a step emits one well-answered response or releases the ports, after taking the transfer in. -/
theorem stepKeepsTheInvariant : Obligations.StepKeepsTheInvariant := by
  intro s t hinv hstep
  have hacc := inv_accept hinv
  obtain ⟨w, rest, -, hans⟩ | ⟨-, hidle⟩ := step_cases s
  · obtain rfl : _ = t := Host.Outcome.next.inj (hans.symm.trans hstep)
    refine inv_emit (inv_with_pending hacc rest) ?_
    simpa using respondWord_wellAnswered s.cfg w
  · obtain rfl : _ = t := Host.Outcome.next.inj (hidle.symm.trans hstep)
    exact inv_releasePorts hacc

/-- The board's table is admitted whatever permutation the wiring is (R11, log 2). -/
theorem config_map_injective : Config.map.Injective := by
  intro j k hne heq
  simp only [Config.map, Fin.getElem_fin, Vector.getElem_ofFn] at heq
  have hpos := Config.wiring.injective (BitVec.ofFin.inj heq)
  exact hne (Fin.castLE_injective _ hpos)

/-- Settles O42: the board's table is admitted, and the stream is empty with no response valid. -/
theorem resetMeetsTheInvariant : Obligations.ResetMeetsTheInvariant where
  table := config_map_injective
  position := rfl
  ports := fun hv => absurd hv Bool.false_ne_true
  answers := fun _ hr => absurd hr List.not_mem_nil

/-- Settles O39: after either reset the queue and the stream are empty and `rsp_valid` is 0. -/
theorem resetEmptiesTheBlock : Obligations.ResetEmptiesTheBlock := by
  refine ⟨⟨rfl, rfl, readPorts_of_not_valid rfl, rfl, rfl⟩, fun s => ?_⟩
  have hread : s.applyReset.readPorts = none := readPorts_of_not_valid (applyReset_rspValid s)
  simp [hread]

end Sys2Proof.Machine
end

section
/-! PROOFS. The configuration (10_state R10 to R14, R38): read at construction and never written. -/

namespace Sys2Proof.Machine

/-- Entry `k` of the table is field `k` of the port (R10). -/
@[simp] theorem getElem_tableOfPort (cfgMap : BitVec 80) (k : Fin 16) :
    (tableOfPort cfgMap)[k] = cfgMap.extractLsb' (5 * k.val) 5 := by
  simp [tableOfPort]

theorem construct_of_injective {cfgMap : BitVec 80} (h : (tableOfPort cfgMap).Injective) (cfgVref : BitVec 16) :
    State.construct cfgMap cfgVref = .next { State.reset with cfg := ⟨tableOfPort cfgMap, cfgVref⟩ } :=
  if_pos h

theorem construct_of_not_injective {cfgMap : BitVec 80} (h : ¬(tableOfPort cfgMap).Injective) (cfgVref : BitVec 16) :
    State.construct cfgMap cfgVref = .refused .mapNotInjective :=
  if_neg h

/-- Settles O40: the table is injective exactly when the port's fields are distinct. -/
theorem constructionRefusesEqualEntries : Obligations.ConstructionRefusesEqualEntries := by
  refine ⟨getElem_tableOfPort, ?_, ?_⟩
  · rintro cfgMap cfgVref ⟨j, k, hne, heq⟩
    refine construct_of_not_injective (fun hinj => hinj j k hne ?_) cfgVref
    simpa only [getElem_tableOfPort] using heq
  · intro cfgMap cfgVref hdistinct
    have hinj : (tableOfPort cfgMap).Injective := fun j k hne => by
      simpa only [getElem_tableOfPort] using hdistinct j k hne
    exact ⟨_, construct_of_injective hinj cfgVref, rfl, rfl, getElem_tableOfPort cfgMap⟩

/-- Everything an operation of the table can do: it answers RawWords one after another, or one code. -/
theorem exec_cases (i : Instr) (s : State) :
    (∃ ws, exec i s = .next (answerAll ws s)) ∨ ∃ c, exec i s = .next (answerCode c s) := by
  cases i with
  | decode din => exact .inl ⟨[rawWordOperand din], rfl⟩
  | convert din => exact .inr ⟨codeOperand din, rfl⟩
  | remap w => exact .inl ⟨[w], rfl⟩
  | tcdec c => exact .inr ⟨c, rfl⟩
  | scale c => exact .inr ⟨c, rfl⟩
  | decodeSeq ws => exact .inl ⟨ws, rfl⟩

theorem exec_cfg {i : Instr} {s t : State} (h : exec i s = .next t) : t.cfg = s.cfg := by
  obtain ⟨ws, hws⟩ | ⟨c, hc⟩ := exec_cases i s
  · obtain rfl : _ = t := Host.Outcome.next.inj (hws.symm.trans h)
    exact answerAll_cfg ws s
  · obtain rfl : _ = t := Host.Outcome.next.inj (hc.symm.trans h)
    exact answerCode_cfg c s

/-- Every step has a next state (R120), with the same configuration (R12, R14). -/
theorem step_next_same_cfg (s : State) : ∃ t, step s = .next t ∧ t.cfg = s.cfg := by
  obtain ⟨w, rest, -, hans⟩ | ⟨-, hidle⟩ := step_cases s
  · exact ⟨_, hans, accept_cfg s⟩
  · exact ⟨_, hidle, accept_cfg s⟩

theorem step_cfg {s t : State} (h : step s = .next t) : t.cfg = s.cfg := by
  obtain ⟨u, hu, hcfg⟩ := step_next_same_cfg s
  obtain rfl : u = t := Host.Outcome.next.inj (hu.symm.trans h)
  exact hcfg

theorem run_cfg {n : Nat} {s t : State} (h : Host.Core.run Sys2Proof.core n s = .next t) : t.cfg = s.cfg := by
  induction n generalizing s with
  | zero => exact congrArg State.cfg (Host.Outcome.next.inj h).symm
  | succ n ih =>
    obtain ⟨u, hu, hcfg⟩ := step_next_same_cfg s
    rw [run_succ hu] at h
    exact (ih h).trans hcfg

/-- Settles O44: a step, an operation, a reset and a presentation keep the configuration, and so does a run, by
induction on its number of steps. -/
theorem configurationNeverChanges : Obligations.ConfigurationNeverChanges :=
  ⟨fun _ _ => step_cfg, fun _ _ _ => exec_cfg, applyReset_cfg, fun _ => accept_cfg, fun _ _ _ => run_cfg⟩

end Sys2Proof.Machine
end

section
/-! PROOFS. The command stream (20_memory R35, R41; 70_reset_and_hazards R163): the accepted commands stand in one line
with the responses; a step, a run and a drain only move along it, and a presented word lengthens it. -/

namespace Sys2Proof.Machine

/-- The responses, followed by the responses still owed to the accepted commands, oldest first. -/
def responseLine (s : State) : List Response :=
  s.responses ++ (accept s).pending.map (respondWord s.cfg)

/-- The stream position at which every accepted command is answered. -/
def lineEnd (s : State) : Nat := s.pos + (accept s).pending.length

/-- From `s` to `t` no command was lost, repeated, overtaken or added, and the configuration stayed (R12, R35). -/
structure SameLine (s t : State) : Prop where
  cfg : t.cfg = s.cfg
  /-- No transfer appears on the port by itself. -/
  port : s.cmdValid = false → t.cmdValid = false
  line : responseLine t = responseLine s
  position : lineEnd t = lineEnd s

theorem SameLine.refl (s : State) : SameLine s s := ⟨rfl, id, rfl, rfl⟩

theorem SameLine.trans {s t u : State} (h : SameLine s t) (h' : SameLine t u) : SameLine s u :=
  ⟨h'.cfg.trans h.cfg, h'.port ∘ h.port, h'.line.trans h.line, h'.position.trans h.position⟩

/-- No command is accepted exactly when the queue and the port are empty. -/
theorem accept_pending_eq_nil {s : State} :
    (accept s).pending = [] ↔ s.pending = [] ∧ s.cmdValid = false := by
  simp [accept_pending]

/-- A presented word is accepted behind everything accepted before (R51). -/
theorem accept_present_pending (w : CommandWord) (s : State) :
    (accept (s.present w)).pending = (accept s).pending ++ [w] := by
  simp [accept_pending (s.present w), portWord, packCommand_fields]

theorem responseLine_present (w : CommandWord) (s : State) :
    responseLine (s.present w) = responseLine s ++ [respondWord s.cfg w] := by
  simp [responseLine, accept_present_pending]

theorem lineEnd_present (w : CommandWord) (s : State) : lineEnd (s.present w) = lineEnd s + 1 := by
  simp [lineEnd, accept_present_pending, Nat.add_assoc]

/-- With no transfer on the port, the accepted commands are the queue. -/
theorem responseLine_of_not_valid {s : State} (h : s.cmdValid = false) :
    responseLine s = s.responses ++ s.pending.map (respondWord s.cfg) := by
  rw [responseLine, accept_of_not_valid h]

theorem lineEnd_of_not_valid {s : State} (h : s.cmdValid = false) : lineEnd s = s.pos + s.pending.length := by
  rw [lineEnd, accept_of_not_valid h]

/-- Once no command is accepted, the line is the response stream. -/
theorem responseLine_of_nil {s : State} (h : (accept s).pending = []) : responseLine s = s.responses := by
  simp [responseLine, h]

theorem lineEnd_of_nil {s : State} (h : (accept s).pending = []) : lineEnd s = s.pos := by
  simp [lineEnd, h]

/-- A step goes on along the line by one command: with one accepted it answers the oldest, with none it waits. -/
theorem step_sameLine (s : State) :
    ∃ t, step s = .next t ∧ t.cmdValid = false ∧ SameLine s t ∧ t.pending = (accept s).pending.tail := by
  obtain ⟨w, rest, hp, hs⟩ | ⟨hp, hs⟩ := step_cases s
  · have hv : (emit (respondWord s.cfg w) { accept s with pending := rest }).cmdValid = false := by simp
    refine ⟨_, by simpa using hs, hv, ⟨by simp, fun _ => hv, ?_, ?_⟩, by simp [hp]⟩
    · rw [responseLine_of_not_valid hv]
      simp [responseLine, hp]
    · rw [lineEnd_of_not_valid hv]
      simp [lineEnd, hp, Nat.add_assoc, Nat.add_comm 1]
  · have hv : (idle (accept s)).cmdValid = false := by simp
    refine ⟨_, hs, hv, ⟨by simp, fun _ => hv, ?_, ?_⟩, by simp [hp]⟩
    · rw [responseLine_of_not_valid hv]
      simp [responseLine]
    · rw [lineEnd_of_not_valid hv]
      simp [lineEnd]

/-- Any number of steps completes, stays in the line and takes as many commands as it has steps (R120, R35). -/
theorem run_sameLine (n : Nat) (s : State) : ∃ t, Host.Core.run Sys2Proof.core n s = .next t ∧ SameLine s t ∧
    (accept t).pending = (accept s).pending.drop n := by
  induction n generalizing s with
  | zero => exact ⟨s, rfl, .refl s, rfl⟩
  | succ n ih =>
    obtain ⟨u, hu, hv, hline, hpend⟩ := step_sameLine s
    obtain ⟨t, ht, hline', hpend'⟩ := ih u
    refine ⟨t, (run_succ hu n).trans ht, hline.trans hline', ?_⟩
    rw [hpend', accept_of_not_valid hv, hpend, List.drop_tail]

/-- Draining answers everything accepted: the line becomes the response stream (R163). -/
theorem drain_answers (s : State) : ∃ t, drain s = .next t ∧ t.pending = [] ∧ t.cmdValid = false ∧ t.cfg = s.cfg ∧
    t.responses = responseLine s ∧ t.pos = lineEnd s := by
  obtain ⟨t, ht, hline, hpend⟩ := run_sameLine (accept s).pending.length s
  rw [List.drop_length] at hpend
  obtain ⟨hp, hv⟩ := accept_pending_eq_nil.mp hpend
  exact ⟨t, ht, hp, hv, hline.cfg, (responseLine_of_nil hpend).symm.trans hline.line,
    (lineEnd_of_nil hpend).symm.trans hline.position⟩

/-- The response in the line at the place of a command is what that command alone is answered. -/
theorem exec_readPorts_of_getElem? {ws : List CommandWord} {i : Nat} {w : CommandWord} (s : State) (h : ws[i]? = some w) :
    ∃ r u, (ws.map (respondWord s.cfg))[i]? = some r ∧ exec (decodeCommand w) s = .next u ∧ u.readPorts = some r :=
  ⟨_, _, by rw [List.getElem?_map, h, Option.map_some], exec_decodeCommand w s, readPorts_emit _ _⟩

/-- Settles O20: a step stays in the line, and its one command, if there is one, is the head of the queue. -/
theorem noCommandIsLostOrRepeated : Obligations.NoCommandIsLostOrRepeated := by
  intro s t hstep
  obtain ⟨u, hu, hv, hline, hpend⟩ := step_sameLine s
  obtain rfl : t = u := Host.Outcome.next.inj (hstep.symm.trans hu)
  have hresp : t.responses ++ t.pending.map (respondWord t.cfg) = responseLine s :=
    (responseLine_of_not_valid hv).symm.trans hline.line
  have hpos : t.pos + t.pending.length = lineEnd s := (lineEnd_of_not_valid hv).symm.trans hline.position
  have hcount := congrArg List.length hresp
  simp only [responseLine, List.length_append, List.length_map, hpend, List.length_tail] at hcount
  rw [lineEnd, hpend, List.length_tail] at hpos
  refine ⟨hresp, by omega, ?_⟩
  rw [← List.length_pos_iff]
  omega

/-- Settles O17: the run is the drain of a block whose port is empty. -/
theorem streamIsAnsweredInOrder : Obligations.StreamIsAnsweredInOrder := by
  intro s hv
  obtain ⟨t, ht, hp, -, hcfg, hresp, hpos⟩ := drain_answers s
  rw [drain, accept_of_not_valid hv] at ht
  rw [responseLine_of_not_valid hv] at hresp
  rw [lineEnd_of_not_valid hv] at hpos
  exact ⟨t, _, ht, hp, hcfg, hresp, List.length_map _, hpos, fun i w => exec_readPorts_of_getElem? s⟩

/-- Settles O18: a run stays in the line, and with nothing pending the line is the response stream. -/
theorem finishedRunAnsweredEachCommandOnce : Obligations.FinishedRunAnsweredEachCommandOnce := by
  intro n s t hv hrun hp
  obtain ⟨u, hu, hline, -⟩ := run_sameLine n s
  obtain rfl : t = u := Host.Outcome.next.inj (hrun.symm.trans hu)
  have hnil := accept_pending_eq_nil.mpr ⟨hp, hline.port hv⟩
  have hresp := (responseLine_of_nil hnil).symm.trans hline.line
  rw [responseLine_of_not_valid hv] at hresp
  exact ⟨_, hresp, List.length_map _, fun i w => exec_readPorts_of_getElem? s⟩

/-- Presenting words lengthens the line by their responses, and the drain at the end answers all of it. -/
theorem driveWords_answers (ws : List CommandWord) (s : State) : ∃ t, driveWords ws s = .next t ∧ t.pending = [] ∧
    t.cmdValid = false ∧ t.cfg = s.cfg ∧ t.responses = responseLine s ++ ws.map (respondWord s.cfg) ∧
    t.pos = lineEnd s + ws.length := by
  induction ws generalizing s with
  | nil => simpa [driveWords] using drain_answers s
  | cons w ws ih =>
    obtain ⟨u, hu, -, hline, -⟩ := step_sameLine (s.present w)
    obtain ⟨t, ht, hp, hv, hcfg, hresp, hpos⟩ := ih u
    have hucfg : u.cfg = s.cfg := by simpa using hline.cfg
    refine ⟨t, by simpa [driveWords, hu] using ht, hp, hv, hcfg.trans hucfg, ?_, ?_⟩
    · rw [hresp, hline.line, responseLine_present, hucfg, List.map_cons, List.append_assoc, List.singleton_append]
    · rw [hpos, hline.position, lineEnd_present, List.length_cons, Nat.add_assoc, Nat.add_comm 1]

/-- Settles O19: the line of the first state, lengthened by the presented words. -/
theorem presentedStreamIsAnswered : Obligations.PresentedStreamIsAnswered := by
  intro ws s
  simpa [responseLine, lineEnd] using driveWords_answers ws s

end Sys2Proof.Machine
end

section
/-! PROOFS. The trigger (60_exceptions R125, R130, R134; 70_reset_and_hazards R153, R158, R161): what a cycle does before
any word is presented. -/

namespace Sys2Proof.Machine

theorem runOneCycle_of_refused {c : CycleInputs} {r : Refusal} (h : triggerRefusal c = some r) (s : State) :
    runOneCycle c s = ⟨[], c.phase, .notTriggered r, s⟩ := by
  simp [runOneCycle, h]

theorem decodeCycle_trigger (ws : List RawWord) (s : State) : (decodeCycle ws s).trigger = triggerPulse := by
  unfold decodeCycle
  split <;> rfl

/-- A permitted cycle pulses the trigger, however it goes on. -/
theorem runOneCycle_trigger_of_permitted {c : CycleInputs} (h : triggerRefusal c = none) (s : State) :
    (runOneCycle c s).trigger = triggerPulse := by
  simp only [runOneCycle, h]
  split
  · rfl
  · rfl
  · split
    · rfl
    · rfl
    · exact decodeCycle_trigger _ s

/-- Until the completion line reads LOW no word is presented (R158). -/
theorem runOneCycle_block_of_not_low {c : CycleInputs} (h : awaitLow c.pollBound c.levels ≠ .low) (s : State) :
    (runOneCycle c s).block = s := by
  unfold runOneCycle
  split
  · rfl
  · split
    · rfl
    · rfl
    · exact absurd ‹_› h

/-- While the engine runs no word is presented (R134). -/
theorem runOneCycle_block_of_running {c : CycleInputs} (h : c.engine = .running) (s : State) :
    (runOneCycle c s).block = s := by
  simp only [runOneCycle, h, acquire]
  split
  · rfl
  · split <;> rfl

/-- The trigger is pulsed exactly in a cycle that is not refused. -/
theorem runOneCycle_trigger_eq_pulse (c : CycleInputs) (s : State) :
    (runOneCycle c s).trigger = [true, false] ↔ triggerRefusal c = none := by
  refine ⟨fun h => ?_, fun h => runOneCycle_trigger_of_permitted h s⟩
  cases hr : triggerRefusal c with
  | none => rfl
  | some r => simp [runOneCycle_of_refused hr] at h

/-- Settles O54: a refusal is what keeps the trigger low, and waiting or blocked the host presents nothing. -/
theorem noTriggerWithoutPermission : Obligations.NoTriggerWithoutPermission := by
  refine ⟨fun c s => ⟨(runOneCycle_trigger_eq_pulse c s).trans triggerRefusal_eq_none, fun h => ?_⟩, ?_⟩
  · rw [ne_eq, runOneCycle_trigger_eq_pulse] at h
    obtain ⟨r, hr⟩ := Option.ne_none_iff_exists'.mp h
    rw [runOneCycle_of_refused hr]
    exact ⟨rfl, rfl, rfl, r, rfl⟩
  · rintro c s - (hwait | hrun)
    · exact runOneCycle_block_of_not_low (by simp [hwait]) s
    · exact runOneCycle_block_of_running hrun s

end Sys2Proof.Machine
end

section
/-! PROOFS. The command map (30_encoding R50, R57, R60): the two packed forms decode to the two commands, and the
encoder and the decoder undo each other. -/

namespace Sys2Proof

theorem decodeCommand_of_srcOf_false {w : CommandWord} (h : srcOf w = false) :
    decodeCommand w = .decode (dinOf w) := by
  simp [decodeCommand, h]

theorem decodeCommand_of_srcOf_true {w : CommandWord} (h : srcOf w = true) :
    decodeCommand w = .convert (dinOf w) := by
  simp [decodeCommand, h]

@[simp] theorem decodeCommand_packCommand_false (din : RawWord) :
    decodeCommand (packCommand false din) = .decode din := by
  rw [decodeCommand_of_srcOf_false (srcOf_packCommand false din), dinOf_packCommand]

@[simp] theorem decodeCommand_packCommand_true (din : BitVec 32) :
    decodeCommand (packCommand true din) = .convert din := by
  rw [decodeCommand_of_srcOf_true (srcOf_packCommand true din), dinOf_packCommand]

/-- Encoding what a word decodes to gives the word back. -/
theorem encodeWords_decodeCommand (w : CommandWord) : encodeWords (decodeCommand w) = [w] := by
  have hpack := packCommand_fields w
  cases hsrc : srcOf w with
  | false => rw [decodeCommand_of_srcOf_false hsrc, encodeWords, ← hsrc, hpack]
  | true => rw [decodeCommand_of_srcOf_true hsrc, encodeWords, ← hsrc, hpack]

/-- Decoding the words of an operation gives the commands it stands for (R65). -/
theorem map_decodeCommand_encodeWords (i : Instr) : (encodeWords i).map decodeCommand = i.expand := by
  cases i with
  | decodeSeq ws => simp [encodeWords, Instr.expand, Function.comp_def]
  | _ => simp [encodeWords, Instr.expand]

/-- An operation stands for itself exactly when it is one of the two commands (R57, R65). -/
theorem wellFormed_iff_expand (i : Instr) : i.wellFormed = true ↔ i.expand = [i] := by
  cases i with
  | decodeSeq ws => simp [Instr.wellFormed, Instr.expand, List.map_eq_singleton_iff]
  | _ => simp [Instr.wellFormed, Instr.expand]

/-- An operation stands for commands only (R57, R65). -/
theorem wellFormed_of_mem_expand {i j : Instr} (h : j ∈ i.expand) : j.wellFormed = true := by
  rw [← map_decodeCommand_encodeWords, List.mem_map] at h
  obtain ⟨w, -, rfl⟩ := h
  cases hsrc : srcOf w with
  | false => rw [decodeCommand_of_srcOf_false hsrc, Instr.wellFormed]
  | true => rw [decodeCommand_of_srcOf_true hsrc, Instr.wellFormed]

/-- A command is decoded from its own words. -/
theorem map_decodeCommand_of_wellFormed {i : Instr} (h : i.wellFormed = true) :
    (encodeWords i).map decodeCommand = [i] :=
  (map_decodeCommand_encodeWords i).trans ((wellFormed_iff_expand i).mp h)

/-- Settles O2: a command is its own expansion, and the fields of a word pack to the word. -/
theorem commandWordsRoundTrip : Obligations.CommandWordsRoundTrip := by
  refine ⟨fun i => map_decodeCommand_of_wellFormed, encodeWords_decodeCommand, fun i hi => ?_⟩
  obtain ⟨w, -, hw⟩ := List.map_eq_singleton_iff.mp (map_decodeCommand_of_wellFormed hi)
  exact ⟨w, hw⟩

/-- Settles O4: every word of an expansion is a command's. -/
theorem operationsExpandToCommands : Obligations.OperationsExpandToCommands := fun i =>
  ⟨map_decodeCommand_encodeWords i, fun _ => wellFormed_of_mem_expand, wellFormed_iff_expand i⟩

/-- The mask of the command map keeps the bit `SRC` alone. -/
theorem and_srcMask (w : CommandWord) :
    w &&& 0x100000000#33 = if srcOf w then 0x100000000#33 else 0x000000000#33 :=
  BitVec.and_twoPow w 32

theorem dinOf_eq_setWidth (w : CommandWord) : dinOf w = w.setWidth 32 :=
  (BitVec.setWidth_eq_extractLsb' (by decide)).symm

/-- Settles O3: the masked bit is `SRC`, which is 0 or 1. -/
theorem everyWordIsDecodeOrConvert : Obligations.EveryWordIsDecodeOrConvert := by
  intro w
  rw [and_srcMask, ← dinOf_eq_setWidth]
  cases hsrc : srcOf w with
  | false => simp [decodeCommand_of_srcOf_false hsrc]
  | true => simp [decodeCommand_of_srcOf_true hsrc]

/-- Settles O1: each word is a literal of the spec's tables, decoded by evaluation. -/
theorem commandWordsOfTheSpecDecode : Obligations.CommandWordsOfTheSpecDecode := by
  unfold Obligations.CommandWordsOfTheSpecDecode
  decide

end Sys2Proof
end

section
/-! PROOFS. The written lines (30_encoding R64, R65): operands in range are kept as they are written, others give no
operation. -/

namespace Sys2Proof

theorem writtenWord_of_le {n : Nat} (h : n ≤ 4294967295) : writtenWord n = some (BitVec.ofNat 32 n) := if_pos h

theorem writtenWord_of_gt {n : Nat} (h : 4294967295 < n) : writtenWord n = none := if_neg (by omega)

theorem writtenCode_of_le {n : Nat} (h : n ≤ 65535) : writtenCode n = some (BitVec.ofNat 16 n) := if_pos h

theorem writtenCode_of_gt {n : Nat} (h : 65535 < n) : writtenCode n = none := if_neg (by omega)

theorem writtenWords_of_forall_le {ns : List Nat} (h : ∀ n ∈ ns, n ≤ 4294967295) :
    writtenWords ns = some (ns.map (BitVec.ofNat 32)) := by
  induction ns with
  | nil => rfl
  | cons n ns ih =>
    obtain ⟨hn, hns⟩ := List.forall_mem_cons.mp h
    simp [writtenWords, writtenWord_of_le hn, ih hns]

/-- One word out of range leaves no sequence. -/
theorem writtenWords_of_mem_gt {ns : List Nat} {n : Nat} (hmem : n ∈ ns) (hn : 4294967295 < n) :
    writtenWords ns = none := by
  induction ns with
  | nil => exact absurd hmem List.not_mem_nil
  | cons m ns ih =>
    obtain rfl | hmem := List.mem_cons.mp hmem
    · simp [writtenWords, writtenWord_of_gt hn]
    · simp [writtenWords, ih hmem]

/-- The number a command word `{SRC, DIN}` writes (R50). -/
theorem toNat_packCommand (src : Bool) (din : BitVec 32) :
    (packCommand src din).toNat = src.toNat * 2 ^ 32 + din.toNat := by
  rw [packCommand, BitVec.toNat_append, BitVec.toNat_ofBool, ← Nat.shiftLeft_add_eq_or_of_lt din.isLt, Nat.shiftLeft_eq]

/-- A written number that fits `DIN` is the number of the word below bit 32 (R64). -/
theorem toNat_packCommand_ofNat (src : Bool) {n : Nat} (h : n ≤ 4294967295) :
    (packCommand src (BitVec.ofNat 32 n)).toNat = src.toNat * 2 ^ 32 + n := by
  rw [toNat_packCommand, BitVec.toNat_ofNat, Nat.mod_eq_of_lt (by omega)]

/-- A code widened to `DIN` leaves `DIN[31:16]` zero (R64). -/
theorem drivenAsWritten_convert_setWidth (c : Code) : Instr.drivenAsWritten (.convert (c.setWidth 32)) = true := by
  have hzero : (c.setWidth 32).extractLsb' 16 16 = 0#16 := by
    refine BitVec.eq_of_getLsbD_eq fun i hi => ?_
    simp
  simp [Instr.drivenAsWritten, hzero]

/-- Settles O5: each mnemonic's line reads its operands by the two written forms, `<word>` and `<code>`. -/
theorem writtenLinesAreAssembled : Obligations.WrittenLinesAreAssembled := by
  refine ⟨fun n hn => ?_, fun n hn => ?_, fun n hn => ?_, fun n hn => ?_, fun ns hns => ?_, ?_⟩
  · have hword := toNat_packCommand_ofNat false hn
    simp [assemble, encodeWords, writtenWord_of_le hn, hword]
  · have hwide : (BitVec.ofNat 16 n).setWidth 32 = BitVec.ofNat 32 n :=
      BitVec.setWidth_ofNat_of_le_of_lt (by decide) (by omega)
    have hzero := drivenAsWritten_convert_setWidth (BitVec.ofNat 16 n)
    rw [hwide] at hzero
    have hword := toNat_packCommand_ofNat true (hn.trans (by decide))
    simp [assemble, encodeWords, writtenCode_of_le hn, hwide, hzero, hword]
  · simp [assemble, writtenWord_of_gt hn]
  · simp [assemble, writtenCode_of_gt hn]
  · simp [assemble, writtenWords_of_forall_le hns]
  · rintro ns ⟨n, hmem, hn⟩
    simp [assemble, writtenWords_of_mem_gt hmem hn]

end Sys2Proof
end

section
/-! PROOFS. The pseudo-operations of one command (30_encoding R65): REMAP is DECODE, TCDEC and SCALE are CONVERT, and
each emits one record of which the host reads one field. -/

namespace Sys2Proof.Machine

/-- Emitting a record changes the stream, its position and the response ports, and nothing else (R16, R18). -/
theorem emitted_emit (r : Response) (s : State) : Emitted r s (emit r s) :=
  ⟨⟨rfl, rfl, rfl, rfl, rfl, rfl⟩, rfl, rfl, readPorts_emit r s⟩

theorem exec_remap (w : RawWord) (s : State) : exec (.remap w) s = .next (emit (respondRaw s.cfg w) s) := rfl

theorem exec_tcdec (c : Code) (s : State) : exec (.tcdec c) s = .next (emit (respondCode s.cfg c) s) := rfl

theorem exec_scale (c : Code) (s : State) : exec (.scale c) s = .next (emit (respondCode s.cfg c) s) := rfl

theorem exec_convert (din : BitVec 32) (s : State) :
    exec (.convert din) s = .next (emit (respondCode s.cfg (codeOperand din)) s) := rfl

/-- CONVERT's operand is the code that was widened to `DIN`. -/
@[simp] theorem codeOperand_setWidth (c : Code) : codeOperand (c.setWidth 32) = c := by
  rw [codeOperand, ← BitVec.setWidth_eq_extractLsb' (by decide), BitVec.setWidth_setWidth_of_le c (by decide),
    BitVec.setWidth_eq]

theorem exec_convert_setWidth (c : Code) (s : State) :
    exec (.convert (c.setWidth 32)) s = .next (emit (respondCode s.cfg c) s) := by
  rw [exec_convert, codeOperand_setWidth]

/-- Settles O12: REMAP emits DECODE's record, whose CODE is the gathered bits. -/
theorem remapReadsTheCode : Obligations.RemapReadsTheCode := fun s w =>
  ⟨rfl, _, respondRaw s.cfg w, exec_remap w s, emitted_emit _ s, rfl, getLsbD_remap s.cfg.map w⟩

/-- Settles O13: TCDEC emits CONVERT's record, whose SVAL is the signed value of the code. -/
theorem tcdecReadsTheSignedValue : Obligations.TcdecReadsTheSignedValue := by
  intro s c
  have hsval : (respondCode s.cfg c).sval.toInt = signedOfCode c := toInt_svalOfCode c
  refine ⟨(exec_convert_setWidth c s).symm, _, respondCode s.cfg c, exec_tcdec c s, emitted_emit _ s, rfl,
    fun hneg => ?_, fun hpos => ?_⟩
  · rw [hsval, signedOfCode, if_pos hneg]
  · rw [hsval, signedOfCode, if_neg (by omega)]

/-- Every signed value in range is read back from its 16-bit pattern (R82). -/
theorem toInt_ofInt_code {n : Int} (lo : -32768 ≤ n) (hi : n ≤ 32767) : (BitVec.ofInt 16 n).toInt = n :=
  BitVec.toInt_ofInt_eq_self (by decide) lo (by omega)

/-- Settles O14: SCALE emits CONVERT's record, whose VOLT is the exact product. -/
theorem scaleReadsTheVoltage : Obligations.ScaleReadsTheVoltage := by
  refine ⟨fun s c => (exec_convert_setWidth c s).symm, fun s n lo hi => ?_⟩
  refine ⟨_, respondCode s.cfg (BitVec.ofInt 16 n), exec_scale _ s, emitted_emit _ s, rfl, ?_⟩
  rw [toInt_volt_respondCode, toInt_ofInt_code lo hi]

end Sys2Proof.Machine
end

section
/-! PROOFS. The record's fields (30_encoding R54, R56): SVAL is the sign extension of CODE, and the record is the three
fields side by side. -/

namespace Sys2Proof.Machine

theorem svalOfCode_eq_signExtend (c : Code) : svalOfCode c = c.signExtend 32 := by
  apply BitVec.eq_of_toInt_eq
  rw [toInt_svalOfCode, signedOfCode_eq_toInt, BitVec.toInt_signExtend_of_le (by decide)]

/-- A bit of SVAL: CODE's below position 16, the sign bit from there on (R54). -/
theorem getLsbD_svalOfCode (c : Code) {i : Nat} (hi : i < 32) :
    (svalOfCode c).getLsbD i = if i < 16 then c.getLsbD i else signBit c := by
  rw [svalOfCode_eq_signExtend, BitVec.getLsbD_signExtend, BitVec.msb_eq_getLsbD_last]
  simp [hi, signBit]

/-- The SVAL patterns are those of the signed values -32768 to 32767. -/
theorem exists_svalOfCode_eq_iff (v : SignedValue) :
    (∃ c : Code, svalOfCode c = v) ↔ -32768 ≤ v.toInt ∧ v.toInt ≤ 32767 := by
  constructor
  · rintro ⟨c, rfl⟩
    rw [toInt_svalOfCode]
    exact signedOfCode_bounds c
  · rintro ⟨lo, hi⟩
    refine ⟨BitVec.ofInt 16 v.toInt, BitVec.eq_of_toInt_eq ?_⟩
    rw [toInt_svalOfCode, signedOfCode_eq_toInt, toInt_ofInt_code lo hi]

/-- The signed values -32768 to 32767 as 32-bit patterns. -/
theorem toInt_in_code_range_iff (v : SignedValue) :
    -32768 ≤ v.toInt ∧ v.toInt ≤ 32767 ↔ v.toNat ≤ 0x00007FFF ∨ 0xFFFF8000 ≤ v.toNat := by
  have hv := v.isLt
  rw [BitVec.toInt_eq_toNat_cond]
  split <;> omega

/-- Settles O31: SVAL extends CODE by its sign bit, so its patterns are those of the signed values in range. -/
theorem svalIsASignExtension : Obligations.SvalIsASignExtension := by
  refine ⟨fun c => ⟨fun i hi => ?_, fun i hlo hi => ?_, svalOfCode_eq_signExtend c, toInt_svalOfCode c⟩, fun v => ?_⟩
  · rw [getLsbD_svalOfCode c (by omega), if_pos hi]
  · rw [getLsbD_svalOfCode c hi, if_neg (by omega)]
  · exact (exists_svalOfCode_eq_iff v).trans (toInt_in_code_range_iff v)

/-- Settles O38: a field of a concatenation lies wholly in one part of it. -/
theorem recordIsCodeSvalVolt : Obligations.RecordIsCodeSvalVolt := by
  intro r
  refine ⟨?_, ?_, BitVec.extractLsb'_append_eq_right⟩
  · rw [record, BitVec.extractLsb'_append_eq_of_le (by decide)]
    exact BitVec.extractLsb'_append_eq_left
  · rw [record, BitVec.extractLsb'_append_eq_of_le (by decide)]
    exact BitVec.extractLsb'_append_eq_right

end Sys2Proof.Machine
end

section
/-! PROOFS. The command port (30_encoding R50, R51): a presented word is accepted behind the others, and neither
presenting nor acceptance touches anything else. -/

namespace Sys2Proof.Machine

/-- Acceptance changes the queue and `cmd_valid`, and nothing else. -/
theorem accept_eq (s : State) : accept s = { s with cmdValid := false, pending := (accept s).pending } := by
  cases hv : s.cmdValid with
  | false => rw [accept_of_not_valid hv, ← hv]
  | true => simp [accept, hv]

/-- Presenting writes the command port and takes a transfer that stood there into the queue. -/
theorem present_eq (w : CommandWord) (s : State) : s.present w =
    { s with cmdValid := true, cmdSrc := srcOf w, cmdDin := dinOf w, pending := (accept s).pending } := by
  rw [State.present, accept_eq]

/-- Settles O8: acceptance moves the port's word to the end of the queue, and presenting refills the port. -/
theorem presentedCommandsAreAccepted : Obligations.PresentedCommandsAreAccepted := by
  refine ⟨fun s w => accept_present_pending w s, fun s hv => ?_, fun s => accept_of_not_valid, fun s => ?_,
    fun s w => present_eq w s⟩
  · simp [accept_pending, hv, portWord]
  · simp

end Sys2Proof.Machine
end

section
/-! PROOFS. The engine's text (30_encoding R62, R63): plain numerals joined by commas are split and read back in order,
and one field out of range leaves no word. -/

namespace Sys2Proof.Machine

theorem not_comma_of_isDigit {c : Char} (h : isDigit c = true) : c.toNat ≠ 44 := by
  simp only [isDigit, Bool.and_eq_true, decide_eq_true_eq] at h
  omega

theorem not_isBlank_of_isDigit {c : Char} (h : isDigit c = true) : isBlank c = false := by
  simp only [isDigit, Bool.and_eq_true, decide_eq_true_eq] at h
  simp only [isBlank, Bool.or_eq_false_iff, beq_eq_false_iff_ne]
  omega

/-- A plain numeral has digits, and nothing else. -/
theorem isPlainNumeral_digits {f : List Char} (h : isPlainNumeral f = true) : f ≠ [] ∧ ∀ c ∈ f, isDigit c = true := by
  simp only [isPlainNumeral, Bool.and_eq_true, List.all_eq_true] at h
  obtain ⟨⟨hne, hall⟩, -⟩ := h
  exact ⟨by simpa using hne, hall⟩

theorem not_all_isBlank_of_isPlainNumeral {f : List Char} (h : isPlainNumeral f = true) : f.all isBlank = false := by
  obtain ⟨hne, hdigit⟩ := isPlainNumeral_digits h
  obtain ⟨c, hc⟩ := List.exists_mem_of_ne_nil f hne
  exact List.all_eq_false.mpr ⟨c, hc, by simp [not_isBlank_of_isDigit (hdigit c hc)]⟩

/-- The join of fields without a comma splits into those fields (R62). -/
theorem splitFields_intersperse {fs : List (List Char)} (hne : fs ≠ []) (hf : ∀ f ∈ fs, ∀ c ∈ f, c.toNat ≠ 44) :
    splitFields (fs.intersperse [',']).flatten = fs := by
  induction fs with
  | nil => exact absurd rfl hne
  | cons f fs ih =>
    obtain ⟨hhead, htail⟩ := List.forall_mem_cons.mp hf
    cases fs with
    | nil => simpa using splitFields_field f hhead
    | cons g gs =>
      rw [List.intersperse_cons_cons, List.flatten_cons, List.flatten_cons, List.singleton_append,
        splitFields_field_comma f _ hhead, ih (by simp) htail]

/-- A last field that is not blank is kept: the fields are the parts between the commas. -/
theorem fieldsOf_eq_splitFields {text : List Char}
    (h : ((splitFields text).getLast?.getD []).all isBlank = false) : fieldsOf text = splitFields text := by
  simp [fieldsOf, h]

theorem fieldsOf_intersperse {fs : List (List Char)} (hne : fs ≠ []) (hf : ∀ f ∈ fs, isPlainNumeral f = true) :
    fieldsOf (fs.intersperse [',']).flatten = fs := by
  have hsplit : splitFields (fs.intersperse [',']).flatten = fs :=
    splitFields_intersperse hne fun f hfs c hc => not_comma_of_isDigit ((isPlainNumeral_digits (hf f hfs)).2 c hc)
  rw [fieldsOf_eq_splitFields, hsplit]
  rw [hsplit, List.getLast?_eq_some_getLast hne, Option.getD_some]
  exact not_all_isBlank_of_isPlainNumeral (hf _ (List.getLast_mem hne))

theorem fieldRawWord_of_fieldInteger {f : List Char} {n : Int} (h : fieldInteger f = some n) :
    fieldRawWord f = rawWordOfInt n := by
  simp [fieldRawWord, h]

/-- A plain numeral in range is the RawWord of its value (R62, R63). -/
theorem fieldRawWord_of_plain {f : List Char} (h : isPlainNumeral f = true) (hle : numeralValue f ≤ 4294967295) :
    fieldRawWord f = some (BitVec.ofNat 32 (numeralValue f)) := by
  have hint : fieldInteger f = some (numeralValue f : Int) := if_pos h
  rw [fieldRawWord_of_fieldInteger hint, rawWordOfInt, if_pos (by omega), BitVec.ofInt_natCast]

/-- An integer out of range is no RawWord (R63). -/
theorem fieldRawWord_of_out_of_range {f : List Char} {n : Int} (h : fieldInteger f = some n)
    (hn : n < 0 ∨ 4294967295 < n) : fieldRawWord f = none := by
  rw [fieldRawWord_of_fieldInteger h, rawWordOfInt, if_neg (by omega)]

theorem parseText_of_rawWords {count : Nat} {text : List Char} {ws : List RawWord}
    (h : rawWordsOfFields (fieldsOf text) = some ws) (hcount : ws.length = count) (hne : ws ≠ []) :
    parseText count text = .ok ws := by
  simp [parseText, h, hcount, hne]

/-- One field that is no RawWord spoils the whole text (R104, R123). -/
theorem parseText_of_bad_field {text f : List Char} (hf : f ∈ fieldsOf text) (h : fieldRawWord f = none) (count : Nat) :
    parseText count text = .error .malformedSampleData := by
  simp [parseText, rawWordsOfFields_eq_none hf h]

/-- A text that does not parse is reported however the engine exited (N16). -/
theorem acquire_of_parseText_error {count : Nat} {text : List Char}
    (h : parseText count text = .error .malformedSampleData) (takes : Bool) (status : ExitStatus) :
    acquire count takes (.exited status text) = some (.error .malformedSampleData) :=
  acquire_eq_error.mpr (.inr ⟨rfl, status, text, rfl, .inl h⟩)

/-- Plain numerals in range, joined by commas, parse to their values in order (R62). -/
theorem parseText_intersperse {fs : List (List Char)} (hne : fs ≠ [])
    (hf : ∀ f ∈ fs, isPlainNumeral f = true ∧ numeralValue f ≤ 4294967295) :
    parseText fs.length (fs.intersperse [',']).flatten = .ok (fs.map fun f => BitVec.ofNat 32 (numeralValue f)) := by
  refine parseText_of_rawWords ?_ (List.length_map _) (by simpa using hne)
  rw [fieldsOf_intersperse hne fun f hfs => (hf f hfs).1, rawWordsOfFields_eq_some, List.map_map]
  exact List.map_congr_left fun f hfs => fieldRawWord_of_plain (hf f hfs).1 (hf f hfs).2

/-- Settles O47: the join of plain numerals splits into them again, and the document's text is such a join. -/
theorem decimalTextBecomesRawWords : Obligations.DecimalTextBecomesRawWords :=
  ⟨fun _ => parseText_intersperse, parseText_intersperse (fs := [['1'], ['2'], ['3']]) (by decide) (by decide)⟩

/-- Settles O48: a field out of range is no RawWord, and one such field spoils the text. -/
theorem outOfRangeFieldIsMalformed : Obligations.OutOfRangeFieldIsMalformed :=
  fun count takes status _ _ _ hf hint hn =>
    acquire_of_parseText_error (parseText_of_bad_field hf (fieldRawWord_of_out_of_range hint hn) count) takes status

end Sys2Proof.Machine
end

section
/-! PROOFS. REMAP bit by bit (40_remap R70, R72): the gathered bits, the code as the sum of their weights, and that the
word is read at the mapped positions only. -/

namespace Sys2Proof.Machine

/-- A sum of powers of two at distinct exponents has exactly those bits set whose summand is there. -/
theorem testBit_sum_two_pow_iff {n : Nat} (b : Fin n → Bool) {p : Fin n → Nat} (hp : p.Injective) (i : Nat) :
    (∑ k, (b k).toNat * 2 ^ p k).testBit i = true ↔ ∃ k, p k = i ∧ b k = true := by
  have hsum : ∑ k, (b k).toNat * 2 ^ p k = ∑ j ∈ ({k | b k = true} : Finset (Fin n)).image p, 2 ^ j := by
    rw [Finset.sum_image hp.injOn, Finset.sum_filter]
    refine Finset.sum_congr rfl fun k _ => ?_
    cases b k <;> simp
  rw [hsum, ← Nat.mem_bitIndices, ← List.mem_toFinset, Finset.toFinset_bitIndices_sum_two_pow]
  simp [and_comm]

/-- A bit vector is the sum of its bits' weights (R4). -/
theorem toNat_eq_sum_bits {n : Nat} (v : BitVec n) : v.toNat = ∑ k : Fin n, (v.getLsbD k).toNat * 2 ^ k.val := by
  refine Nat.eq_of_testBit_eq fun i => Bool.eq_iff_iff.mpr ?_
  rw [testBit_sum_two_pow_iff (fun k : Fin n => v.getLsbD k) Fin.val_injective, BitVec.testBit_toNat]
  constructor
  · exact fun h => ⟨⟨i, BitVec.lt_of_getLsbD h⟩, rfl, h⟩
  · rintro ⟨k, rfl, h⟩
    exact h

/-- Two words have one code exactly when they agree at every mapped position (R72). -/
theorem remap_eq_remap_iff {m : BitMapTable} {w w' : RawWord} :
    remap m w = remap m w' ↔ ∀ k : Fin 16, w.getLsbD (mapPosition m k) = w'.getLsbD (mapPosition m k) := by
  simp only [← getLsbD_remap]
  exact ⟨fun h k => by rw [h], code_ext⟩

theorem exec_decode (w : RawWord) (s : State) : exec (.decode w) s = .next (emit (respondRaw s.cfg w) s) := rfl

/-- DECODE sees of its word the code alone (R72, R100). -/
theorem exec_decode_congr {s : State} {w w' : RawWord} (h : remap s.cfg.map w = remap s.cfg.map w') :
    exec (.decode w) s = exec (.decode w') s := by
  rw [exec_decode, exec_decode, respondRaw, respondRaw, h]

theorem remap_zero (m : BitMapTable) : remap m 0x00000000#32 = 0x0000#16 :=
  code_ext fun k => by rw [getLsbD_remap, BitVec.getLsbD_zero, BitVec.getLsbD_zero]

theorem remap_allOnes (m : BitMapTable) : remap m (BitVec.allOnes 32) = BitVec.allOnes 16 :=
  code_ext fun k => by
    rw [getLsbD_remap, BitVec.getLsbD_allOnes, BitVec.getLsbD_allOnes, decide_eq_true (mapPosition_lt m k),
      decide_eq_true k.isLt]

/-- Settles O23: the code is the sum of its bits' weights, and its bits are the gathered ones. -/
theorem remapGathersMappedBits : Obligations.RemapGathersMappedBits := by
  refine ⟨fun m w => ⟨getLsbD_remap m w, ?_⟩, fun m => ⟨remap_zero m, remap_allOnes m⟩, by decide⟩
  simpa only [getLsbD_remap] using toNat_eq_sum_bits (remap m w)

/-- Settles O24: agreement at the mapped positions is agreement of the codes, and DECODE sees nothing else. -/
theorem unmappedBitsAreIgnored : Obligations.UnmappedBitsAreIgnored := by
  refine ⟨fun s w w' h => ?_, by decide, by decide⟩
  have hcode : remap s.cfg.map w = remap s.cfg.map w' := remap_eq_remap_iff.mpr h
  exact ⟨hcode, exec_decode_congr hcode⟩

end Sys2Proof.Machine
end

section
/-! PROOFS. Words with one bit set (40_remap R73; 70_reset_and_hazards R154): the code shows at which positions the
table reads that bit. -/

namespace Sys2Proof.Machine

theorem getLsbD_oneHot {p : Nat} (hp : p < 32) (i : Nat) : (oneHot p).getLsbD i = decide (p = i) := by
  rw [oneHot, ← BitVec.twoPow_eq, BitVec.getLsbD_twoPow, decide_eq_true hp, Bool.true_and]

/-- The word with the bit at the position that one table gives `k`, remapped by another table. -/
theorem getLsbD_remap_oneHot (m believed : BitMapTable) (j k : Fin 16) :
    (remap m (oneHot (mapPosition believed k))).getLsbD j = decide (mapPosition believed k = mapPosition m j) := by
  rw [getLsbD_remap, getLsbD_oneHot (mapPosition_lt believed k)]

/-- With an injective table only logical bit `k` reads the position of `k` (R73). -/
theorem remap_oneHot {m : BitMapTable} (h : m.Injective) (k : Fin 16) :
    remap m (oneHot (mapPosition m k)) = BitVec.twoPow 16 k := by
  refine code_ext fun j => ?_
  rw [getLsbD_remap_oneHot, BitVec.getLsbD_twoPow, decide_eq_true k.isLt, Bool.true_and, decide_eq_decide]
  exact ⟨fun e => congrArg Fin.val (mapPosition_injective h e), fun e => by rw [Fin.ext e]⟩

theorem toNat_remap_oneHot {m : BitMapTable} (h : m.Injective) (k : Fin 16) :
    (remap m (oneHot (mapPosition m k))).toNat = 2 ^ k.val := by
  rw [remap_oneHot h, BitVec.toNat_twoPow, Nat.mod_eq_of_lt (Nat.pow_lt_pow_right one_lt_two k.isLt)]

/-- Settles O25: the one-hot word of `k` sets each logical bit that reads its position, which for an injective table is
bit `k` alone. -/
theorem oneHotWordsGivePowersOfTwo : Obligations.OneHotWordsGivePowersOfTwo := by
  refine ⟨fun m h k => toNat_remap_oneHot h k, fun m j k _ e => ?_, fun m h => ?_, by decide⟩
  · simp [getLsbD_remap_oneHot, e]
  · rw [remap_oneHot h]
    decide

theorem bringUpCheck_eq_true {configured believed : BitMapTable} : bringUpCheck configured believed = true ↔
    ∀ k : Fin 16, (remap configured (oneHot (mapPosition believed k))).toNat = 2 ^ k.val := by
  simp [bringUpCheck]

/-- A code whose number is `2^k` has bit `k` set. -/
theorem getLsbD_of_toNat_eq_two_pow {c : Code} {k : Nat} (h : c.toNat = 2 ^ k) : c.getLsbD k = true := by
  rw [← BitVec.testBit_toNat, h, Nat.testBit_two_pow_self]

/-- Tables with the same positions are equal. -/
theorem table_ext {m m' : BitMapTable} (h : ∀ k : Fin 16, mapPosition m k = mapPosition m' k) : m = m' :=
  Vector.ext fun i hi => BitVec.eq_of_toNat_eq (h ⟨i, hi⟩)

/-- Settles O26: bit `k` of the code `2^k` was read where the tester put it, so the tables agree at `k`. -/
theorem bringUpCheckFindsAWrongTable : Obligations.BringUpCheckFindsAWrongTable := by
  refine ⟨fun configured believed hpass => table_ext fun k => ?_, fun m h => ?_, by decide⟩
  · have hbit := getLsbD_of_toNat_eq_two_pow (bringUpCheck_eq_true.mp hpass k)
    rw [getLsbD_remap_oneHot, decide_eq_true_eq] at hbit
    exact hbit.symm
  · exact bringUpCheck_eq_true.mpr (toNat_remap_oneHot h)

end Sys2Proof.Machine
end

section
/-! PROOFS. REMAP as a map of bit vectors (40_remap R74): it commutes with XOR and AND, SCATTER is a right inverse of
it, and XOR with a word carries the preimages of one code to those of another. -/

namespace Sys2Proof.Machine

theorem remap_xor (m : BitMapTable) (w w' : RawWord) : remap m (w ^^^ w') = remap m w ^^^ remap m w' :=
  code_ext fun k => by simp only [getLsbD_remap, BitVec.getLsbD_xor]

theorem remap_and (m : BitMapTable) (w w' : RawWord) : remap m (w &&& w') = remap m w &&& remap m w' :=
  code_ext fun k => by simp only [getLsbD_remap, BitVec.getLsbD_and]

/-- SCATTER puts logical bit `k` at position `MAP[k]` (R74). -/
theorem getLsbD_scatter {m : BitMapTable} (h : m.Injective) (c : Code) (k : Fin 16) :
    (scatter c m).getLsbD (mapPosition m k) = c.getLsbD k := by
  have hinj : Function.Injective (mapPosition m) := fun _ _ => mapPosition_injective h
  rw [scatter, BitVec.getLsbD_ofNat, decide_eq_true (mapPosition_lt m k), Bool.true_and, Bool.eq_iff_iff,
    testBit_sum_two_pow_iff (fun k : Fin 16 => c.getLsbD k) hinj]
  constructor
  · rintro ⟨j, hj, hbit⟩
    rwa [← hinj hj]
  · exact fun hbit => ⟨k, rfl, hbit⟩

theorem remap_scatter {m : BitMapTable} (h : m.Injective) (c : Code) : remap m (scatter c m) = c :=
  code_ext fun k => by rw [getLsbD_remap, getLsbD_scatter h]

/-- XOR with `v` carries the preimages of `c` to those of `c` XOR the code of `v`. -/
theorem card_preimages_xor (m : BitMapTable) (c : Code) (v : RawWord) :
    Nat.card { w : RawWord // remap m w = c } = Nat.card { w : RawWord // remap m w = c ^^^ remap m v } := by
  have hinv : Function.Involutive fun w : RawWord => w ^^^ v := fun w => by simp
  refine Nat.card_congr (hinv.toPerm.subtypeEquiv fun w => ?_)
  simp [remap_xor]

theorem card_preimages_eq_zero_code {m : BitMapTable} (h : m.Injective) (c : Code) :
    Nat.card { w : RawWord // remap m w = c } = Nat.card { w : RawWord // remap m w = 0#16 } := by
  rw [card_preimages_xor m c (scatter c m), remap_scatter h, BitVec.xor_self]

theorem card_bitVec (n : Nat) : Nat.card (BitVec n) = 2 ^ n := by
  rw [Nat.card_eq_fintype_card, ← FinEnum.card_eq_fintypeCard, FinEnum.card_bitVec]

/-- The `2^32` words fall into `2^16` sets of preimages of one size (R74). -/
theorem card_preimages {m : BitMapTable} (h : m.Injective) (c : Code) :
    Nat.card { w : RawWord // remap m w = c } = 2 ^ 16 := by
  have htotal : 2 ^ 16 * Nat.card { w : RawWord // remap m w = c } = 2 ^ 32 := by
    calc 2 ^ 16 * Nat.card { w : RawWord // remap m w = c }
        = ∑ d : Code, Nat.card { w : RawWord // remap m w = d } := by
          simp [card_preimages_eq_zero_code h, ← Nat.card_eq_fintype_card, card_bitVec]
      _ = Nat.card RawWord := by rw [← Nat.card_sigma, Nat.card_congr (Equiv.sigmaFiberEquiv (remap m))]
      _ = 2 ^ 32 := card_bitVec 32
  omega

/-- Settles O27: SCATTER's bits at the mapped positions are the code's, and by linearity each code has as many
preimages as any other. -/
theorem remapIsOntoAndLinear : Obligations.RemapIsOntoAndLinear := by
  refine ⟨fun m h c => ⟨remap_scatter h c, fun w hw => ?_, card_preimages h c⟩,
    fun m w w' => ⟨remap_xor m w w', remap_and m w w'⟩, by decide, by decide, by decide⟩
  exact (remap_eq_remap_iff.mpr hw).trans (remap_scatter h c)

end Sys2Proof.Machine
end

section
/-! PROOFS. What REMAP loses (40_remap R75): it drops 16 of the 32 bits, and with an injective table into the low
half-word these are the upper half-word. -/

namespace Sys2Proof.Machine

/-- A code widened to a word has bits in the low half-word only. -/
theorem getLsbD_remap_setWidth (m : BitMapTable) (c : Code) (k : Fin 16) :
    (remap m (c.setWidth 32)).getLsbD k = c.getLsbD (mapPosition m k) := by
  rw [getLsbD_remap, BitVec.getLsbD_setWidth, decide_eq_true (mapPosition_lt m k), Bool.true_and]

/-- An injective table into the low half-word reads every position there. -/
theorem exists_mapPosition_eq {m : BitMapTable} (h : m.Injective) (hlow : ∀ k : Fin 16, mapPosition m k < 16)
    (i : Fin 16) : ∃ k : Fin 16, mapPosition m k = i := by
  have hinj : Function.Injective fun k : Fin 16 => (⟨mapPosition m k, hlow k⟩ : Fin 16) :=
    fun _ _ e => mapPosition_injective h (Fin.mk.inj e)
  obtain ⟨k, hk⟩ := Finite.surjective_of_injective hinj i
  exact ⟨k, congrArg Fin.val hk⟩

theorem bijective_remap_setWidth {m : BitMapTable} (h : m.Injective) (hlow : ∀ k : Fin 16, mapPosition m k < 16) :
    Function.Bijective fun c : Code => remap m (c.setWidth 32) := by
  refine Finite.injective_iff_bijective.mp fun c d hcd => code_ext fun i => ?_
  obtain ⟨k, hk⟩ := exists_mapPosition_eq h hlow i
  rw [← hk, ← getLsbD_remap_setWidth, ← getLsbD_remap_setWidth]
  exact congrArg (·.getLsbD k) hcd

/-- When every code is reached from the low half-word, the code with only bit `j` set is: equal entries would set a
second bit. -/
theorem injective_of_surjective_remap_setWidth {m : BitMapTable}
    (h : ∀ c : Code, ∃ d : Code, remap m (d.setWidth 32) = c) : m.Injective := by
  intro j k hne heq
  obtain ⟨d, hd⟩ := h (BitVec.twoPow 16 j)
  have hbit (i : Fin 16) : d.getLsbD (mapPosition m i) = decide (j.val = i.val) := by
    rw [← getLsbD_remap_setWidth, hd, BitVec.getLsbD_twoPow, decide_eq_true j.isLt, Bool.true_and]
  have hsame : mapPosition m j = mapPosition m k := congrArg BitVec.toNat heq
  have hj := hbit j
  rw [hsame, hbit k] at hj
  exact hne (Fin.ext (by simpa using hj))

/-- When every code is reached from the low half-word, the code of ones is: every position read is in it. -/
theorem mapPosition_lt_of_surjective_remap_setWidth {m : BitMapTable}
    (h : ∀ c : Code, ∃ d : Code, remap m (d.setWidth 32) = c) (k : Fin 16) : mapPosition m k < 16 := by
  obtain ⟨d, hd⟩ := h (BitVec.allOnes 16)
  refine BitVec.lt_of_getLsbD (x := d) ?_
  rw [← getLsbD_remap_setWidth, hd, BitVec.getLsbD_allOnes, decide_eq_true k.isLt]

/-- There are more words than codes (R75). -/
theorem remap_not_injective (m : BitMapTable) : ¬Function.Injective (remap m) := by
  intro h
  have hcard := Nat.card_le_card_of_injective _ h
  rw [card_bitVec, card_bitVec] at hcard
  omega

/-- Settles O28: onto the codes the low half-word leaves no room for equal entries or higher positions, and the words
outnumber the codes. -/
theorem remapSelectsSixteenBits : Obligations.RemapSelectsSixteenBits := by
  refine ⟨fun m => ⟨fun ⟨h, hlow⟩ => bijective_remap_setWidth h hlow, fun ⟨_, hsurj⟩ => ?_⟩, remap_not_injective⟩
  exact ⟨injective_of_surjective_remap_setWidth hsurj, mapPosition_lt_of_surjective_remap_setWidth hsurj⟩

end Sys2Proof.Machine
end

section
/-! PROOFS. TCDEC as a bijection (41_tcdec R80, R82): the sign bit decides the branch, the low 16 bits of a signed value
are its code, and every integer in range is the value of its 16-bit pattern. -/

namespace Sys2Proof.Machine

theorem signedOfCode_of_ge {c : Code} (h : 32768 ≤ c.toNat) : signedOfCode c = (c.toNat : Int) - 65536 := if_pos h

theorem signedOfCode_of_lt {c : Code} (h : c.toNat < 32768) : signedOfCode c = c.toNat := if_neg (by omega)

/-- `CODE[15]` is set in the upper half of the codes (R80). -/
theorem le_toNat_iff_signBit (c : Code) : 32768 ≤ c.toNat ↔ signBit c = true := by
  have hmsb : signBit c = c.msb := (BitVec.msb_eq_getLsbD_last c).symm
  rw [hmsb, BitVec.msb_eq_decide, decide_eq_true_iff]

/-- The low 16 bits of the signed value are the code (R82). -/
theorem ofInt_signedOfCode (c : Code) : BitVec.ofInt 16 (signedOfCode c) = c := by
  rw [signedOfCode_eq_toInt, BitVec.ofInt_toInt]

theorem signedOfCode_ofInt {n : Int} (lo : -32768 ≤ n) (hi : n ≤ 32767) : signedOfCode (BitVec.ofInt 16 n) = n := by
  rw [signedOfCode_eq_toInt, toInt_ofInt_code lo hi]

theorem signedOfCode_injective : Function.Injective signedOfCode :=
  Function.LeftInverse.injective ofInt_signedOfCode

/-- The unsigned reading of a code is its signed value modulo `2^16` (R82). -/
theorem toNat_eq_signedOfCode_emod (c : Code) : (c.toNat : Int) = signedOfCode c % 65536 := by
  have hc := c.isLt
  rcases Nat.lt_or_ge c.toNat 32768 with hlt | hge
  · rw [signedOfCode_of_lt hlt]
    omega
  · rw [signedOfCode_of_ge hge]
    omega

/-- Settles O29: the two branches agree with the two's-complement reading, and the sign bit tells them apart. -/
theorem twosComplementLaw : Obligations.TwosComplementLaw := by
  refine ⟨fun c => ⟨signedOfCode_of_ge, signedOfCode_of_lt, signedOfCode_eq_toInt c, le_toNat_iff_signBit c, rfl,
    svalOfCode_eq_signExtend c⟩, ?_⟩
  decide

/-- Settles O30: the 16-bit pattern of an integer is a two-sided inverse of TCDEC on the range, and SCATTER carries it
on to a word. -/
theorem signedValuesAreABijection : Obligations.SignedValuesAreABijection := by
  refine ⟨fun c => ?_, fun n lo hi => ?_, fun m h n lo hi => ?_⟩
  · obtain ⟨lo, hi⟩ := signedOfCode_bounds c
    exact ⟨lo, hi, ofInt_signedOfCode c, toNat_eq_signedOfCode_emod c⟩
  · have hval := signedOfCode_ofInt lo hi
    exact ⟨BitVec.ofInt 16 n, hval, fun c hc => signedOfCode_injective (hc.trans hval.symm)⟩
  · refine ⟨scatter (BitVec.ofInt 16 n) m, ?_⟩
    rw [remap_scatter h, signedOfCode_ofInt lo hi]

end Sys2Proof.Machine
end

section
/-! PROOFS. The sign of a voltage (41_tcdec R85): VOLT is the exact product of the signed value and a reference that is
never negative. -/

namespace Sys2Proof.Machine

theorem toInt_scale_signedOfCode (c : Code) (vref : Reference) :
    (scale (signedOfCode c) vref).toInt = signedOfCode c * vref.toNat := by
  obtain ⟨lo, hi⟩ := signedOfCode_bounds c
  exact toInt_scale lo hi vref

theorem sign_toNat_of_ne_zero {vref : Reference} (h : vref ≠ 0#16) : (vref.toNat : Int).sign = 1 :=
  Int.sign_natCast_of_ne_zero (BitVec.toNat_ne_iff_ne.mpr h)

/-- Settles O37: the sign of the exact product is the product of the signs, and it is 0 when a factor is. -/
theorem voltageHasTheSignOfTheValue : Obligations.VoltageHasTheSignOfTheValue := by
  intro c vref
  refine ⟨fun hv => ?_, ?_⟩
  · rw [toInt_scale_signedOfCode, Int.sign_mul, sign_toNat_of_ne_zero hv, Int.mul_one]
  · calc scale (signedOfCode c) vref = 0#32
        ↔ (scale (signedOfCode c) vref).toInt = 0 := BitVec.toInt_inj.symm
      _ ↔ signedOfCode c = 0 ∨ (vref.toNat : Int) = 0 := by rw [toInt_scale_signedOfCode, Int.mul_eq_zero]
      _ ↔ signedOfCode c = 0 ∨ vref = 0#16 := by rw [Int.natCast_eq_zero, BitVec.toNat_eq, BitVec.toNat_ofNat]

end Sys2Proof.Machine
end

section
/-! PROOFS. What a VOLT pattern stands for (42_scale R90, R91): the product over `2^15`, of which `VOLT[31:15]` is the
quotient toward minus infinity and `VOLT[14:0]` the remainder. -/

namespace Sys2Proof.Machine

/-- The voltage of a pattern is its integer in steps of 1/32768 mV (R55). -/
theorem millivolts_eq_toInt_div (v : Volt) : millivolts v = (v.toInt : Rat) / 32768 := by
  norm_num [millivolts, Config.vrefUnit, Config.frac]

theorem floor_millivolts (v : Volt) : ⌊millivolts v⌋ = v.toInt / 32768 := by
  rw [millivolts_eq_toInt_div]
  exact Rat.floor_intCast_div_natCast v.toInt 32768

theorem wholeCounts_eq_toInt_div (v : Volt) : wholeCounts v = v.toInt / 32768 := by
  have hv := v.isLt
  have hbits : (v.extractLsb' 15 17).toNat = v.toNat / 32768 := by
    rw [BitVec.extractLsb'_toNat, Nat.shiftRight_eq_div_pow, Nat.mod_eq_of_lt (by omega)]
  rw [wholeCounts, BitVec.toInt_eq_toNat_cond, BitVec.toInt_eq_toNat_cond, hbits]
  split <;> split <;> omega

/-- `VOLT[14:0]` is the fraction in steps of 1/32768, never negative (R91). -/
theorem toNat_fraction_eq_toInt_emod (v : Volt) : ((v.extractLsb' 0 15).toNat : Int) = v.toInt % 32768 := by
  rw [BitVec.extractLsb'_toNat, BitVec.toInt_eq_toNat_cond, Nat.shiftRight_zero]
  split <;> omega

/-- The voltage of a signed value in range is the exact product over 32768 (R90). -/
theorem millivolts_scale {s : Int} (lo : -32768 ≤ s) (hi : s ≤ 32767) (vref : Reference) :
    millivolts (scale s vref) = (vref.toNat : Rat) * s / 32768 := by
  rw [millivolts_eq_toInt_div, toInt_scale lo hi, Int.cast_mul, Int.cast_natCast, mul_comm]

/-- Settles O32: the product is exact, and its bounds are those of the largest reference. -/
theorem scaleIsTheExactProduct : Obligations.ScaleIsTheExactProduct := by
  refine ⟨fun s vref lo hi => ?_, by decide, by decide, by decide, by decide, ?_⟩
  · obtain ⟨hlow, hhigh⟩ := product_bounds lo hi vref
    have hvref := vref.isLt
    have hscale := toInt_scale lo hi vref
    exact ⟨hscale, by omega, by omega, millivolts_scale lo hi vref⟩
  · rw [millivolts_scale (by decide) (by decide), BitVec.toNat_ofNat]
    norm_num

/-- Settles O33: quotient and remainder by 32768 of the exact product. -/
theorem voltStandsForTheFormula : Obligations.VoltStandsForTheFormula := by
  intro s vref lo hi
  have hwhole := wholeCounts_eq_toInt_div (scale s vref)
  refine ⟨?_, ?_, ?_, ?_⟩
  · rw [millivolts_scale lo hi, mul_div_assoc]
  · rw [hwhole, floor_millivolts]
  · rw [hwhole, toInt_scale lo hi]
  · rw [hwhole, toNat_fraction_eq_toInt_emod, Int.ediv_mul_add_emod]

end Sys2Proof.Machine
end

section
/-! PROOFS. The voltage of a code (42_scale R92 to R97): from the unsigned code, at the ends of the range, and bounded by
the reference for every command. -/

namespace Sys2Proof.Machine

/-- The two branches of R80 in one formula, the offset applied where the sign bit is set (R92). -/
theorem signedOfCode_eq_sub_signBit (c : Code) :
    signedOfCode c = (c.toNat : Int) - 65536 * (signBit c).toNat := by
  cases hsign : signBit c with
  | true => simp [signedOfCode_of_ge ((le_toNat_iff_signBit c).mpr hsign)]
  | false =>
    have hlt : c.toNat < 32768 := Nat.lt_of_not_le fun hge => by simp [(le_toNat_iff_signBit c).mp hge] at hsign
    simp [signedOfCode_of_lt hlt]

theorem scale_zero (vref : Reference) : scale 0 vref = 0#32 := by
  simp [scale, Config.voff]

theorem scale_zero_reference (s : Int) : scale s 0#16 = 0#32 := by
  simp [scale, Config.voff]

/-- Settles O34: the reference times R80's formula. -/
theorem scaleSeenFromTheUnsignedCode : Obligations.ScaleSeenFromTheUnsignedCode := by
  refine ⟨fun c vref => ?_, scale_zero⟩
  rw [toInt_scale_signedOfCode, signedOfCode_eq_sub_signBit]
  ring

theorem millivolts_scale_signedOfCode (c : Code) (vref : Reference) :
    millivolts (scale (signedOfCode c) vref) = (vref.toNat : Rat) * signedOfCode c / 32768 := by
  obtain ⟨lo, hi⟩ := signedOfCode_bounds c
  exact millivolts_scale lo hi vref

theorem millivolts_scale_most_negative (vref : Reference) :
    millivolts (scale (signedOfCode 0x8000#16) vref) = -(vref.toNat : Rat) := by
  have hvalue : signedOfCode 0x8000#16 = -32768 := by decide
  rw [millivolts_scale_signedOfCode, hvalue]
  push_cast
  ring

theorem millivolts_scale_most_positive (vref : Reference) :
    millivolts (scale (signedOfCode 0x7FFF#16) vref) = (vref.toNat : Rat) * 32767 / 32768 := by
  have hvalue : signedOfCode 0x7FFF#16 = 32767 := by decide
  rw [millivolts_scale_signedOfCode, hvalue, Int.cast_ofNat]

/-- Settles O35: the voltages of the signed values 0, -32768 and 32767, and of every code at the reference 0. -/
theorem boundaryVoltages : Obligations.BoundaryVoltages := by
  refine ⟨fun vref => ⟨scale_zero vref, millivolts_scale_most_negative vref, millivolts_scale_most_positive vref,
    fun hpos => ?_⟩, by decide, by decide, by decide, by decide, fun c => scale_zero_reference _⟩
  have hpos' : (0 : Rat) < vref.toNat := Nat.cast_pos.mpr hpos
  rw [millivolts_scale_most_positive]
  linarith

/-- Only the code 0x8000 has the least signed value (R96). -/
theorem toInt_code_eq_min_iff (c : Code) : c.toInt = -32768 ↔ c = 0x8000#16 :=
  BitVec.toInt_inj (y := 0x8000#16)

/-- Settles O36: VOLT is the product of a signed value in range and the reference, so its bounds are the range's, and a
non-zero reference cancels. -/
theorem voltageNeverExceedsReference : Obligations.VoltageNeverExceedsReference := by
  refine ⟨fun cfg w => ?_, fun c d vref hadj => ?_⟩
  · obtain ⟨-, hvolt⟩ := respondWord_wellAnswered cfg w
    obtain ⟨lo, hi⟩ := signedOfCode_bounds (respondWord cfg w).code
    rw [signedOfCode_eq_toInt] at lo hi
    obtain ⟨hlow, hhigh⟩ := product_bounds lo hi cfg.vref
    rw [hvolt]
    refine ⟨hlow, hhigh, fun hvref => ?_⟩
    have hne : (cfg.vref.toNat : Int) ≠ 0 := Int.natCast_ne_zero.mpr (BitVec.toNat_ne_iff_ne.mpr hvref)
    rw [Int.mul_eq_mul_right_iff hne, toInt_code_eq_min_iff]
  · rw [toInt_scale_signedOfCode, toInt_scale_signedOfCode, signedOfCode_eq_toInt, signedOfCode_eq_toInt, hadj]
    ring

end Sys2Proof.Machine
end

section
/-! PROOFS. The two commands (43_commands R100, R101, R102, R106): each emits one record, a function of the command
word, the table and the reference. -/

namespace Sys2Proof.Machine

/-- The offset is 0, so VOLT is the pattern of the product alone (R92). -/
theorem scale_eq_ofInt_mul (n : Int) (vref : Reference) : scale n vref = BitVec.ofInt 32 (n * vref.toNat) := by
  rw [scale, Config.voff, Int.add_zero]

/-- The record of a code whose signed value is known. -/
theorem respondCode_of_signedOfCode {c : Code} {n : Int} (h : signedOfCode c = n) (cfg : Configuration) :
    respondCode cfg c = ⟨c, BitVec.ofInt 32 n, BitVec.ofInt 32 (n * cfg.vref.toNat)⟩ := by
  rw [respondCode, svalOfCode, h, scale_eq_ofInt_mul]

theorem respondCode_zero (cfg : Configuration) : respondCode cfg 0#16 = ⟨0#16, 0#32, 0#32⟩ := by
  simp [respondCode_of_signedOfCode (c := 0#16) (n := 0) (by decide)]

theorem respondCode_most_negative (cfg : Configuration) : respondCode cfg 0x8000#16 =
    ⟨0x8000#16, 0xFFFF8000#32, BitVec.ofInt 32 (-32768 * cfg.vref.toNat)⟩ := by
  rw [respondCode_of_signedOfCode (c := 0x8000#16) (n := -32768) (by decide)]
  rfl

theorem respondCode_allOnes (cfg : Configuration) : respondCode cfg (BitVec.allOnes 16) =
    ⟨0xFFFF#16, 0xFFFFFFFF#32, BitVec.ofInt 32 (-cfg.vref.toNat)⟩ := by
  rw [respondCode_of_signedOfCode (c := BitVec.allOnes 16) (n := -1) (by decide), Int.neg_one_mul]
  rfl

/-- A word whose mapped bits are all 0 has the code 0 (R70). -/
theorem remap_eq_zero {m : BitMapTable} {w : RawWord} (h : ∀ k : Fin 16, w.getLsbD (mapPosition m k) = false) :
    remap m w = 0#16 :=
  code_ext fun k => by rw [getLsbD_remap, h, BitVec.getLsbD_zero]

/-- Settles O10: DECODE emits the record of the gathered code, and the corner cases are those of three codes. -/
theorem decodeAnswersARawWord : Obligations.DecodeAnswersARawWord := by
  refine ⟨fun w => decodeCommand_of_srcOf_false, fun s din => ?_, fun s hmap hvref => ?_⟩
  · refine ⟨_, respondRaw s.cfg din, exec_decode din s, emitted_emit _ s, getLsbD_remap s.cfg.map din,
      svalOfCode_eq_signExtend _, toInt_volt_respondCode s.cfg _, fun hzero => ?_, fun hinj hdin => ?_, fun hdin => ?_⟩
    · rw [respondRaw, remap_eq_zero hzero, respondCode_zero]
    · rw [respondRaw, hdin, remap_oneHot hinj]
      exact respondCode_most_negative s.cfg
    · have hones : din = BitVec.allOnes 32 := hdin
      rw [respondRaw, hones, remap_allOnes, respondCode_allOnes]
  · have hword : decodeCommand 0x048103608#33 = .decode 0x48103608#32 := by decide
    have hcode : remap mapX 0x48103608#32 = 0xA5C3#16 := by decide
    have hrec : respondRaw s.cfg 0x48103608#32 = ⟨0xA5C3#16, 0xFFFFA5C3#32, 0xFA5C3000#32⟩ := by
      rw [respondRaw, hmap, hcode, respondCode_of_signedOfCode (n := -23101) (by decide), hvref]
      rfl
    rw [hword, ← hrec]
    exact ⟨_, exec_decode _ s, emitted_emit _ s⟩

theorem toNat_codeOperand (din : BitVec 32) : (codeOperand din).toNat = din.toNat % 65536 := by
  rw [codeOperand, BitVec.extractLsb'_toNat, Nat.shiftRight_zero]

/-- `DIN[31:16]` is ignored (R58). -/
theorem codeOperand_and_lowHalf (din : BitVec 32) : codeOperand (din &&& 0x0000FFFF#32) = codeOperand din := by
  apply BitVec.eq_of_toNat_eq
  rw [toNat_codeOperand, toNat_codeOperand, BitVec.toNat_and]
  exact (congrArg (· % 65536) (Nat.and_two_pow_sub_one_eq_mod din.toNat 16)).trans (Nat.mod_mod _ _)

/-- The record of a code reads the reference and not the table (R101). -/
theorem respondCode_congr {cfg cfg' : Configuration} (h : cfg.vref = cfg'.vref) (c : Code) :
    respondCode cfg c = respondCode cfg' c := by
  rw [respondCode, respondCode, h]

/-- Settles O11: CONVERT emits the record of the low half of its operand, which the table has no part in. -/
theorem convertAnswersACode : Obligations.ConvertAnswersACode := by
  refine ⟨fun w => decodeCommand_of_srcOf_true, fun s din => ?_, fun s din => ?_, fun s s' din hvref => ?_,
    fun s hvref => ?_⟩
  · exact ⟨_, respondCode s.cfg (codeOperand din), exec_convert din s, emitted_emit _ s, toNat_codeOperand din,
      svalOfCode_eq_signExtend _, toInt_volt_respondCode s.cfg _⟩
  · rw [exec_convert, exec_convert, codeOperand_and_lowHalf]
  · refine ⟨_, _, _, exec_convert din s, exec_convert din s', emitted_emit _ s, ?_⟩
    rw [respondCode_congr hvref]
    exact emitted_emit _ s'
  · have hword : decodeCommand 0x100008000#33 = .convert ((0x8000#16).setWidth 32) := by decide
    have hrec : respondCode s.cfg 0x8000#16 = ⟨0x8000#16, 0xFFFF8000#32, 0xF8000000#32⟩ := by
      rw [respondCode_most_negative, hvref]
      rfl
    rw [hword, ← hrec]
    exact ⟨_, exec_convert_setWidth _ s, emitted_emit _ s⟩

/-- Settles O21: the record of a command word is a function of the word and the configuration. -/
theorem responseDependsOnCommandAlone : Obligations.ResponseDependsOnCommandAlone := by
  intro w s s' hcfg
  refine ⟨_, _, respondWord s.cfg w, exec_decodeCommand w s, exec_decodeCommand w s', emitted_emit _ s, ?_⟩
  rw [hcfg]
  exact emitted_emit _ s'

theorem mapPosition_mapId (k : Fin 16) : mapPosition mapId k = k := by
  revert k
  decide

/-- With the identity table REMAP takes what CONVERT takes, the low half of the operand (R102). -/
theorem remap_mapId (w : RawWord) : remap mapId w = codeOperand w :=
  code_ext fun k => by
    rw [getLsbD_remap, mapPosition_mapId, codeOperand, BitVec.getLsbD_extractLsb', decide_eq_true k.isLt, Bool.true_and,
      Nat.zero_add]

/-- Settles O22: both commands emit the record of one code. -/
theorem decodeAgreesWithConvert : Obligations.DecodeAgreesWithConvert := by
  refine ⟨fun s w => ?_, fun s w hmap => ?_⟩
  · rw [exec_decode, exec_convert_setWidth, respondRaw]
  · rw [exec_decode, exec_convert, respondRaw, hmap, remap_mapId]

end Sys2Proof.Machine
end

section
/-! PROOFS. DECODESEQ (43_commands R103, R111): one DECODE for each word, whose responses stand last in the stream. -/

namespace Sys2Proof.Machine

theorem exec_decodeSeq (ws : List RawWord) (s : State) : exec (.decodeSeq ws) s = .next (answerAll ws s) := rfl

/-- DECODESEQ is the DECODE of its first word, then DECODESEQ of the others (R103). -/
theorem exec_decodeSeq_cons (w : RawWord) (ws : List RawWord) (s : State) :
    exec (.decodeSeq (w :: ws)) s = exec (.decodeSeq ws) (emit (respondRaw s.cfg w) s) := rfl

/-- The VOLT fields of the responses that stand last in the stream (R103). -/
theorem lastVolts_of_responses {s : State} {old new : List Response} (h : s.responses = old ++ new) :
    lastVolts new.length s = new.map Response.volt := by
  rw [lastVolts, h, List.length_append, Nat.add_sub_cancel, List.drop_left]

theorem sameButResponses_answerAll (ws : List RawWord) (s : State) : SameButResponses s (answerAll ws s) :=
  ⟨answerAll_cfg ws s, answerAll_cmdValid ws s, answerAll_cmdSrc ws s, answerAll_cmdDin ws s, answerAll_pending ws s,
    answerAll_draws ws s⟩

theorem readPorts_answerAll_of_ne_nil {ws : List RawWord} (h : ws ≠ []) (s : State) :
    (answerAll ws s).readPorts = (ws.map (respondRaw s.cfg)).getLast? := by
  obtain ⟨init, w, rfl⟩ := (List.eq_nil_or_concat' ws).resolve_left h
  simp [readPorts_answerAll]

/-- Settles O15: the responses of DECODESEQ are the records of its words, appended in order. -/
theorem decodeSeqAnswersEveryWord : Obligations.DecodeSeqAnswersEveryWord := by
  refine ⟨exec_decodeSeq [], fun s ws => ?_⟩
  have hresp := answerAll_responses ws s
  have hvolts := lastVolts_of_responses hresp
  rw [List.length_map] at hvolts
  refine ⟨answerAll ws s, exec_decodeSeq ws s, sameButResponses_answerAll ws s, answerAll_pos ws s, _, hresp,
    List.length_map _, ?_, fun hne => readPorts_answerAll_of_ne_nil hne s, fun i w hw => ?_⟩
  · rw [reading, hvolts]
  · exact ⟨respondRaw s.cfg w, _, by rw [List.getElem?_map, hw, Option.map_some], exec_decode w s, readPorts_emit _ s⟩

/-- With no transfer on the port a step answers the head of the queue. -/
theorem step_pending_cons {s : State} (hv : s.cmdValid = false) (w : CommandWord) (rest : List CommandWord) :
    step { s with pending := w :: rest } = .next (emit (respondWord s.cfg w) { s with pending := rest }) := by
  have hacc : accept { s with pending := w :: rest } = { s with pending := w :: rest } := accept_of_not_valid hv
  have hfetch := fetch_of_pending (congrArg State.pending hacc)
  rw [hacc] at hfetch
  rw [step_of_fetch hfetch, exec_decodeCommand]

/-- The word of DECODE is answered as its operand (R57). -/
theorem respondWord_packCommand_false (cfg : Configuration) (w : RawWord) :
    respondWord cfg (packCommand false w) = respondRaw cfg w := by
  simp [respondWord, srcOf_packCommand, dinOf_packCommand, rawWordOperand]

/-- Settles O16, by induction on the words: the first step answers the first of them. -/
theorem decodeSeqIsItsCommandsInOrder : Obligations.DecodeSeqIsItsCommandsInOrder := by
  intro s ws rest hv
  induction ws generalizing s with
  | nil => rfl
  | cons w ws ih =>
    have hstep := step_pending_cons hv (packCommand false w) (encodeWords (.decodeSeq ws) ++ rest)
    rw [respondWord_packCommand_false] at hstep
    rw [exec_decodeSeq_cons]
    exact (run_succ hstep ws.length).trans (ih (emit (respondRaw s.cfg w) s) hv)

end Sys2Proof.Machine
end

section
/-! PROOFS. Text that is no integer list (43_commands R104, R111; 60_exceptions R123): one field that is no integer, or
a wrong number of fields, makes the whole acquisition MalformedSampleData. -/

namespace Sys2Proof.Machine

theorem toNat_ne_of_ne {c d : Char} (h : c ≠ d) : c.toNat ≠ d.toNat := fun e => h (Char.toNat_inj.mp e)

/-- Only a blank last field can be dropped (log 15). -/
theorem fieldsOf_cases (text : List Char) : fieldsOf text = splitFields text ∨
    fieldsOf text = (splitFields text).dropLast ∧ ((splitFields text).getLast?.getD []).all isBlank = true := by
  unfold fieldsOf
  dsimp only
  split
  next h =>
    simp only [Bool.and_eq_true] at h
    obtain ⟨⟨-, hblank⟩, -⟩ := h
    exact .inr ⟨rfl, hblank⟩
  next => exact .inl rfl

/-- A field before the last is never dropped. -/
theorem mem_fieldsOf_of_mem_dropLast {text f : List Char} (h : f ∈ (splitFields text).dropLast) : f ∈ fieldsOf text := by
  obtain hall | ⟨hdrop, -⟩ := fieldsOf_cases text
  · exact hall ▸ List.mem_of_mem_dropLast h
  · exact hdrop ▸ h

/-- A field that is not blank is never dropped. -/
theorem mem_fieldsOf_of_not_blank {text f : List Char} (hf : f ∈ splitFields text) (hb : f.all isBlank = false) :
    f ∈ fieldsOf text := by
  obtain hall | ⟨-, hlast⟩ := fieldsOf_cases text
  · exact hall ▸ hf
  · refine mem_fieldsOf_of_mem_dropLast (List.mem_dropLast_of_mem_of_ne_getLast hf fun e => ?_)
    rw [List.getLast?_eq_some_getLast (List.ne_nil_of_mem hf), Option.getD_some, ← e, hb] at hlast
    exact Bool.false_ne_true hlast

/-- Trimming takes blanks only. -/
theorem mem_trimBlanks {f : List Char} {c : Char} (hc : c ∈ f) (hb : isBlank c = false) : c ∈ trimBlanks f := by
  have hdrop {g : List Char} (hg : c ∈ g) : c ∈ g.dropWhile isBlank := by
    rw [← List.takeWhile_append_dropWhile (p := isBlank) (l := g), List.mem_append] at hg
    refine hg.resolve_left fun htake => ?_
    simp [List.mem_takeWhile_imp htake] at hb
  rw [trimBlanks, List.mem_reverse]
  exact hdrop (List.mem_reverse.mpr (hdrop hc))

/-- What is no blank and no sign stands among the digits. -/
theorem mem_signAndDigits {f : List Char} {c : Char} (hc : c ∈ f) (hb : isBlank c = false) (hplus : c ≠ '+')
    (hminus : c ≠ '-') : c ∈ (signAndDigits f).2 := by
  have htrim := mem_trimBlanks hc hb
  unfold signAndDigits
  split
  next hnil => simp [hnil] at htrim
  next d ds hcons =>
    rw [hcons, List.mem_cons] at htrim
    split
    next h45 => exact htrim.resolve_left fun e => toNat_ne_of_ne hminus (e ▸ h45)
    next =>
      split
      next h43 => exact htrim.resolve_left fun e => toNat_ne_of_ne hplus (e ▸ h43)
      next => exact List.mem_cons.mpr htrim

/-- A field is an integer in one of three forms only (R62, log 15). -/
theorem fieldInteger_eq_none {f : List Char} (hplain : isPlainNumeral f = false) (hneg : isNegativeNumeral f = false)
    (hopen : isOpenForm f = false) : fieldInteger f = none := by
  simp [fieldInteger, hplain, hneg, hopen]

/-- A character that is no digit, no blank and no sign is in no integer (R104). -/
theorem fieldInteger_of_bad_char {f : List Char} {c : Char} (hc : c ∈ f) (hd : isDigit c = false)
    (hb : isBlank c = false) (hplus : c ≠ '+') (hminus : c ≠ '-') : fieldInteger f = none := by
  have hplain {g : List Char} (hg : c ∈ g) : isPlainNumeral g = false := by
    refine Bool.eq_false_iff.mpr fun h => ?_
    simp [(isPlainNumeral_digits h).2 c hg] at hd
  have hneg : isNegativeNumeral f = false := by
    cases f with
    | nil => rfl
    | cons d ds =>
      obtain rfl | hds := List.mem_cons.mp hc
      · simp [isNegativeNumeral, show c.toNat ≠ 45 from toNat_ne_of_ne hminus]
      · simp [isNegativeNumeral, hplain hds]
  have hopen : isOpenForm f = false := by
    have hall : (signAndDigits f).2.all isDigit = false :=
      List.all_eq_false.mpr ⟨c, mem_signAndDigits hc hb hplus hminus, by simp [hd]⟩
    rw [isOpenForm, hall, Bool.and_false]
  exact fieldInteger_eq_none (hplain hc) hneg hopen

/-- Two commas in a row leave an empty field between them, before the last (R62). -/
theorem splitFields_double_comma {before after : List Char} (hb : ∀ c ∈ before, c ≠ ',') (ha : ∀ c ∈ after, c ≠ ',') :
    splitFields (before ++ [',', ','] ++ after) = [before, [], after] := by
  have hafter : splitFields (',' :: after) = [[], after] := by
    rw [← splitFields_field after fun c hc => toNat_ne_of_ne (ha c hc)]
    exact splitFields_field_comma [] after (by simp)
  rw [List.append_assoc, List.cons_append, splitFields_field_comma before _ fun c hc => toNat_ne_of_ne (hb c hc)]
  exact congrArg (before :: ·) hafter

/-- A text is malformed when its words, if it has any, are of the wrong number or none at all (R123). -/
theorem parseText_eq_malformed {count : Nat} {text : List Char}
    (h : ∀ ws, rawWordsOfFields (fieldsOf text) = some ws → ws.length = count → ws = []) :
    parseText count text = .error .malformedSampleData := by
  cases hp : parseText count text with
  | ok ws =>
    obtain ⟨hws, hcount, hne⟩ := parseText_ok hp
    exact absurd (h ws hws hcount) hne
  | error f => rw [parseText_error hp]

theorem length_of_rawWordsOfFields {fs : List (List Char)} {ws : List RawWord} (h : rawWordsOfFields fs = some ws) :
    ws.length = fs.length := by
  simpa using (congrArg List.length ((rawWordsOfFields_eq_some fs ws).mp h)).symm

/-- One field that is no integer spoils the whole acquisition (R104). -/
theorem acquire_of_bad_field {text f : List Char} (hf : f ∈ fieldsOf text) (h : fieldInteger f = none) (count : Nat)
    (takes : Bool) (status : ExitStatus) :
    acquire count takes (.exited status text) = some (.error .malformedSampleData) := by
  have hword : fieldRawWord f = none := by simp [fieldRawWord, h]
  exact acquire_of_parseText_error (parseText_of_bad_field hf hword count) takes status

/-- Settles O49: a bad field spoils the text, the empty text is one bad field, and the words are as many as the fields. -/
theorem badTextIsMalformed : Obligations.BadTextIsMalformed := by
  refine ⟨fun count takes status text f hf h => acquire_of_bad_field hf h count takes status,
    fun text f c hf hc hd hb hplus hminus => ?_, by decide, fun before after _ hbefore _ hafter => ?_,
    fun count takes status => ?_, fun takes status text => ?_, fun count takes status text hcount => ?_⟩
  · have hblank : f.all isBlank = false := List.all_eq_false.mpr ⟨c, hc, by simp [hb]⟩
    exact ⟨mem_fieldsOf_of_not_blank hf hblank, fieldInteger_of_bad_char hc hd hb hplus hminus⟩
  · apply mem_fieldsOf_of_mem_dropLast
    rw [splitFields_double_comma hbefore hafter]
    exact .tail before (.head [])
  · exact acquire_of_bad_field (f := []) (by decide) (by decide) count takes status
  · exact acquire_of_parseText_error (parseText_eq_malformed fun ws _ => List.eq_nil_of_length_eq_zero) takes status
  · refine acquire_of_parseText_error (parseText_eq_malformed fun ws hws hlen => ?_) takes status
    exact absurd ((length_of_rawWordsOfFields hws).symm.trans hlen) hcount

/-- Settles O50: the text parses however the engine exited, and the parameter decides whether the exit is taken. -/
theorem abnormalExitIsAHostParameter : Obligations.AbnormalExitIsAHostParameter := by
  intro count text ws h
  obtain ⟨status, text', hrun, -, hparse⟩ := acquire_eq_ok.mp h
  obtain ⟨-, rfl⟩ := EngineRun.exited.inj hrun
  exact ⟨acquire_eq_ok.mpr ⟨.abnormal, text, rfl, fun _ => rfl, hparse⟩,
    acquire_eq_error.mpr (.inr ⟨rfl, .abnormal, text, rfl, .inr ⟨rfl, rfl⟩⟩)⟩

end Sys2Proof.Machine
end

section
/-! PROOFS. One cycle of the host (43_commands R103 to R105; 60_exceptions R128, R130, R131, R140): how it ends in each
branch, when it fails, what a good one hands on, and the return to IDLE. -/

namespace Sys2Proof.Machine

/-- With all words parsed the cycle ends at DONE, its SampleSequence read after the last response (R36, R105). -/
theorem decodeCycle_of_driveWords {ws : List RawWord} {s t : State}
    (h : driveWords (encodeWords (.decodeSeq ws)) s = .next t) :
    decodeCycle ws s = ⟨triggerPulse, .done, .handed (lastVolts ws.length t), t⟩ := by
  simp [decodeCycle, h]

/-- The words are answered in order, each as its DECODE, whatever the block held before (R103, R120). -/
theorem decodeCycle_answers (ws : List RawWord) (s : State) : ∃ t, t.pending = [] ∧ t.cfg = s.cfg ∧
    decodeCycle ws s =
      ⟨triggerPulse, .done, .handed ((ws.map (respondRaw s.cfg)).map Response.volt), t⟩ := by
  obtain ⟨t, ht, hp, -, hcfg, hresp, -⟩ := driveWords_answers (encodeWords (.decodeSeq ws)) s
  have hrecords : (encodeWords (.decodeSeq ws)).map (respondWord s.cfg) = ws.map (respondRaw s.cfg) := by
    simp [encodeWords, respondWord_packCommand_false]
  rw [hrecords] at hresp
  have hvolts := lastVolts_of_responses hresp
  rw [List.length_map] at hvolts
  exact ⟨t, hp, hcfg, by rw [decodeCycle_of_driveWords ht, hvolts]⟩

section Triggered
variable {c : CycleInputs} (h : triggerRefusal c = none)
include h

theorem runOneCycle_of_stillHigh (hw : awaitLow c.pollBound c.levels = .stillHigh) (s : State) :
    runOneCycle c s = ⟨triggerPulse, .awaitingCompletion, .waiting, s⟩ := by
  simp [runOneCycle, h, hw]

theorem runOneCycle_of_timedOut (hw : awaitLow c.pollBound c.levels = .timedOut) (s : State) :
    runOneCycle c s = ⟨triggerPulse, .awaitingCompletion, .failed .handshakeStall, s⟩ := by
  simp [runOneCycle, h, hw]

theorem runOneCycle_of_acquiring (hw : awaitLow c.pollBound c.levels = .low)
    (ha : acquire c.sampleCount c.takesAbnormalExit c.engine = none) (s : State) :
    runOneCycle c s = ⟨triggerPulse, .done, .acquiring, s⟩ := by
  simp [runOneCycle, h, hw, ha]

theorem runOneCycle_of_acquire_error (hw : awaitLow c.pollBound c.levels = .low) {f : Fault}
    (ha : acquire c.sampleCount c.takesAbnormalExit c.engine = some (.error f)) (s : State) :
    runOneCycle c s = ⟨triggerPulse, .done, .failed f, s⟩ := by
  simp [runOneCycle, h, hw, ha]

theorem runOneCycle_of_acquired (hw : awaitLow c.pollBound c.levels = .low) {ws : List RawWord}
    (ha : acquire c.sampleCount c.takesAbnormalExit c.engine = some (.ok ws)) (s : State) :
    runOneCycle c s = decodeCycle ws s := by
  simp [runOneCycle, h, hw, ha]

end Triggered

/-- A cycle fails with an error kind exactly where that kind arises: in the wait or in the acquisition. -/
def FailsWith (c : CycleInputs) (f : Fault) : Prop :=
  triggerRefusal c = none ∧
    ((awaitLow c.pollBound c.levels = .timedOut ∧ f = .handshakeStall) ∨
      (awaitLow c.pollBound c.levels = .low ∧ acquire c.sampleCount c.takesAbnormalExit c.engine = some (.error f)))

/-- The failing branches of a cycle, and no others (R104, R140). -/
theorem runOneCycle_failed_iff (c : CycleInputs) (s : State) (f : Fault) :
    (runOneCycle c s).ending = .failed f ↔ FailsWith c f := by
  unfold FailsWith
  cases hr : triggerRefusal c with
  | some r => simp [runOneCycle_of_refused hr]
  | none =>
    cases hw : awaitLow c.pollBound c.levels with
    | stillHigh => simp [runOneCycle_of_stillHigh hr hw]
    | timedOut => simp [runOneCycle_of_timedOut hr hw, eq_comm]
    | low =>
      cases ha : acquire c.sampleCount c.takesAbnormalExit c.engine with
      | none => simp [runOneCycle_of_acquiring hr hw ha]
      | some answer =>
        cases answer with
        | error g => simp [runOneCycle_of_acquire_error hr hw ha]
        | ok ws =>
          obtain ⟨t, -, -, hdecode⟩ := decodeCycle_answers ws s
          simp [runOneCycle_of_acquired hr hw ha, hdecode]

/-- A failed cycle has presented no word (R128). -/
theorem runOneCycle_block_of_failsWith {c : CycleInputs} {f : Fault} (h : FailsWith c f) (s : State) :
    (runOneCycle c s).block = s := by
  obtain ⟨hr, ⟨hw, -⟩ | ⟨hw, ha⟩⟩ := h
  · rw [runOneCycle_of_timedOut hr hw]
  · rw [runOneCycle_of_acquire_error hr hw ha]

/-- Settles O51: each error kind arises in one branch only, HandshakeStall in the wait and the other two in the
acquisition. -/
theorem failedCycleLeavesTheBlock : Obligations.FailedCycleLeavesTheBlock := by
  intro c s
  refine ⟨fun f hf => ?_, ?_, ?_, ?_⟩
  · have hfails := (runOneCycle_failed_iff c s f).mp hf
    exact ⟨runOneCycle_block_of_failsWith hfails s, hfails.1⟩
  -- Each branch fixes its error kind, so the branches of the other kinds are contradictions.
  all_goals rw [runOneCycle_failed_iff, FailsWith, acquire_eq_error]
  · simp
  · simp
  · simp

/-- Settles O52: the good cycle hands on the VOLT fields of the records of the acquired words. -/
theorem goodCycleHandsEveryVoltage : Obligations.GoodCycleHandsEveryVoltage := by
  intro c s ws hr hw ha
  obtain ⟨t, hp, hcfg, hdecode⟩ := decodeCycle_answers ws s
  obtain ⟨_, _, -, -, hparse⟩ := acquire_eq_ok.mp ha
  obtain ⟨-, hcount, -⟩ := parseText_ok hparse
  rw [runOneCycle_of_acquired hr hw ha, hdecode]
  refine ⟨rfl, rfl, hp, hcfg, _, rfl, by simp, hcount, fun i w hi => ?_⟩
  exact ⟨respondRaw s.cfg w, _, by simp [hi], exec_decode w s, readPorts_emit _ s⟩

theorem afterCycle_of_over {r : CycleResult} (h : r.ending.over = true) : afterCycle true r = .idle := by
  simp [afterCycle, h]

theorem afterCycle_of_not_over {r : CycleResult} (h : r.ending.over = false) (loops : Bool) :
    afterCycle loops r = r.phase := by
  simp [afterCycle, h]

theorem over_iff (e : CycleEnding) : e.over = true ↔ (∃ vs, e = .handed vs) ∨ ∃ f, e = .failed f := by
  cases e <;> simp [CycleEnding.over]

/-- Settles O53: an orchestrator that loops goes to IDLE after a cycle that is over, as the table does from DONE. -/
theorem returnToIdleIsTheOrchestratorsChoice : Obligations.ReturnToIdleIsTheOrchestratorsChoice := by
  refine fun c s => ⟨rfl, fun hover hdone => ?_, afterCycle_of_over, fun h => afterCycle_of_not_over h true, over_iff _⟩
  rw [afterCycle_of_over hover, hdone, handshakeNext]

end Sys2Proof.Machine
end

section
/-! PROOFS. No exception (60_exceptions R120) and the invariant under every operation and host move (70_reset_and_hazards
R141): both go through what an operation can do. -/

namespace Sys2Proof.Machine

/-- Every operation of the table completes (R120). -/
theorem exec_next (i : Instr) (s : State) : ∃ t, exec i s = .next t := by
  obtain ⟨ws, hws⟩ | ⟨c, hc⟩ := exec_cases i s
  · exact ⟨_, hws⟩
  · exact ⟨_, hc⟩

theorem neverStops (s : State) : NeverStops s := fun k => by
  obtain ⟨t, ht, -⟩ := run_sameLine k s
  exact ⟨t, ht⟩

/-- Settles O9: an operation only answers, a step answers or waits, and so any number of steps completes. -/
theorem nothingStops : Obligations.NothingStops := by
  refine ⟨exec_next, fun s => ?_, neverStops⟩
  obtain ⟨t, ht, -⟩ := step_next_same_cfg s
  exact ⟨t, ht⟩

/-- Every code is answered as R54 and R84 ask, and with it every RawWord, which is answered as the code it remaps to. -/
theorem respondCode_wellAnswered (cfg : Configuration) (c : Code) : (respondCode cfg c).WellAnswered cfg :=
  ⟨toInt_sval_respondCode cfg c, toInt_volt_respondCode cfg c⟩

theorem inv_answerCode {s : State} (h : Inv s) (c : Code) : Inv (answerCode c s) :=
  inv_emit h (respondCode_wellAnswered s.cfg c)

theorem inv_answerRaw {s : State} (h : Inv s) (w : RawWord) : Inv (answerRaw w s) :=
  inv_answerCode h (remap s.cfg.map w)

theorem inv_answerAll {s : State} (h : Inv s) (ws : List RawWord) : Inv (answerAll ws s) := by
  induction ws generalizing s with
  | nil => exact h
  | cons w ws ih => exact ih (inv_answerRaw h w)

theorem inv_of_exec {i : Instr} {s t : State} (h : Inv s) (hexec : exec i s = .next t) : Inv t := by
  obtain ⟨ws, hws⟩ | ⟨c, hc⟩ := exec_cases i s
  · obtain rfl : _ = t := Host.Outcome.next.inj (hws.symm.trans hexec)
    exact inv_answerAll h ws
  · obtain rfl : _ = t := Host.Outcome.next.inj (hc.symm.trans hexec)
    exact inv_answerCode h c

/-- The invariant does not speak of the command port, on which alone a presented word stands. -/
theorem inv_present {s : State} (h : Inv s) (w : CommandWord) : Inv (s.present w) := by
  obtain ⟨htable, hpos, hports, hanswers⟩ := inv_accept h
  exact ⟨htable, hpos, hports, hanswers⟩

/-- A stream that has just started owes the invariant nothing but an admitted table. -/
theorem inv_of_empty_stream {s : State} (htable : TableAdmitted s) (hresp : s.responses = []) (hpos : s.pos = 0)
    (hvalid : s.rspValid = false) : Inv s where
  table := htable
  position := by simp [PositionCountsResponses, hresp, hpos]
  ports := by simp [PortsShowLast, hvalid]
  answers := by simp [AllWellAnswered, hresp]

theorem inv_of_construct {cfgMap : BitVec 80} {cfgVref : BitVec 16} {s : State}
    (h : State.construct cfgMap cfgVref = .next s) : Inv s := by
  by_cases hinj : (tableOfPort cfgMap).Injective
  · rw [construct_of_injective hinj] at h
    obtain rfl : _ = s := Host.Outcome.next.inj h
    exact inv_of_empty_stream hinj rfl rfl rfl
  · rw [construct_of_not_injective hinj] at h
    cases h

/-- Settles O43: operations emit well-answered responses, a presentation touches the command port alone, and the reset
input and construction start an empty stream over an admitted table. -/
theorem hostMovesKeepTheInvariant : Obligations.HostMovesKeepTheInvariant :=
  ⟨fun _ _ _ => inv_of_exec, fun w _ h => inv_present h w, fun _ h => inv_of_empty_stream h.table rfl rfl rfl,
    fun _ _ _ => inv_of_construct⟩

end Sys2Proof.Machine
end

section
/-! PROOFS. The handshake (60_exceptions R130, R131, R133; 70_reset_and_hazards R158): where the wait ends, and the path
through the transition table that a cycle's readings lead along. -/

namespace Sys2Proof.Machine

/-- The unbounded wait is over once some reading was LOW, and goes on until then (R131, R158). -/
theorem awaitLow_none (levels : List Bool) :
    awaitLow none levels = if false ∈ levels then .low else .stillHigh := by
  induction levels with
  | nil => rfl
  | cons high levels ih =>
    cases high with
    | false => simp [awaitLow]
    | true => simp [awaitLow, ih]

theorem awaitLow_none_eq_low {levels : List Bool} : awaitLow none levels = .low ↔ false ∈ levels := by
  simp [awaitLow_none]

theorem awaitLow_none_eq_stillHigh {levels : List Bool} : awaitLow none levels = .stillHigh ↔ false ∉ levels := by
  simp [awaitLow_none]

/-- The first `n + 1` readings are all that a wait with the bound `n` looks at (R131, log 16). -/
theorem awaitLow_some_eq_low (n : Nat) (levels : List Bool) :
    awaitLow (some n) levels = .low ↔ false ∈ levels.take (n + 1) := by
  induction levels generalizing n with
  | nil => simp [awaitLow]
  | cons high levels ih =>
    cases high with
    | false => simp [awaitLow]
    | true =>
      cases n with
      | zero => simp [awaitLow]
      | succ n => simp [awaitLow, ih]

/-- A wait with the bound `n` runs out at the HIGH reading after `n` others (R131, log 16). -/
theorem awaitLow_some_eq_timedOut (n : Nat) (levels : List Bool) :
    awaitLow (some n) levels = .timedOut ↔ levels.take (n + 1) = List.replicate (n + 1) true := by
  induction levels generalizing n with
  | nil => simp [awaitLow]
  | cons high levels ih =>
    cases high with
    | false => simp [awaitLow, List.replicate_succ]
    | true =>
      cases n with
      | zero => simp [awaitLow]
      | succ n => simpa [awaitLow, List.replicate_succ] using ih n

/-- Settles O46: by induction on the readings, following the bound down. -/
theorem waitEndsAtTheFirstLow : Obligations.WaitEndsAtTheFirstLow :=
  ⟨fun _ => ⟨awaitLow_none_eq_low, awaitLow_none_eq_stillHigh⟩,
    fun n levels => ⟨awaitLow_some_eq_low n levels, awaitLow_some_eq_timedOut n levels⟩⟩

/-- Every transition of the table, and no other (R130). -/
theorem handshakeNext_cases {h h' : HandshakeState} {e : HandshakeEvent} (hnext : handshakeNext h e = some h') :
    (h = .idle ∧ e = .pulseTrigger ∧ h' = .triggered) ∨
      (h = .triggered ∧ e = .beginPolling ∧ h' = .awaitingCompletion) ∨
      (h = .awaitingCompletion ∧ e = .readLevel true ∧ h' = .awaitingCompletion) ∨
      (h = .awaitingCompletion ∧ e = .readLevel false ∧ h' = .done) ∨
      (h = .done ∧ e = .endCycle ∧ h' = .idle) := by
  unfold handshakeNext at hnext
  split at hnext <;> cases hnext <;> simp

/-- A HIGH reading leaves the host in AWAITING_COMPLETION (R130). -/
theorem handshakeRun_replicate_high (n : Nat) (es : List HandshakeEvent) :
    handshakeRun .awaitingCompletion (List.replicate n (.readLevel true) ++ es) =
      handshakeRun .awaitingCompletion es := by
  induction n with
  | zero => rfl
  | succ n ih => exact ih

/-- After the pulse, the start of polling and HIGH readings alone, the events to come find the host in
AWAITING_COMPLETION (R130). -/
theorem handshakeRun_polling (n : Nat) (es : List HandshakeEvent) :
    handshakeRun .idle ([.pulseTrigger, .beginPolling] ++ List.replicate n (.readLevel true) ++ es) =
      handshakeRun .awaitingCompletion es :=
  handshakeRun_replicate_high n es

theorem handshakeRun_polling_nil (n : Nat) :
    handshakeRun .idle ([.pulseTrigger, .beginPolling] ++ List.replicate n (.readLevel true)) =
      some .awaitingCompletion := by
  simpa [handshakeRun] using handshakeRun_polling n []

/-- Readings without a LOW are HIGH readings. -/
theorem map_readLevel_of_no_low {levels : List Bool} (h : false ∉ levels) :
    levels.map HandshakeEvent.readLevel = List.replicate levels.length (.readLevel true) := by
  have hhigh : levels = List.replicate levels.length true :=
    List.eq_replicate_length.mpr fun high hmem => by
      cases high with
      | false => exact absurd hmem h
      | true => rfl
  rw [hhigh, List.map_replicate, List.length_replicate]

theorem low_not_mem_takeWhile (levels : List Bool) : false ∉ levels.takeWhile id := fun h =>
  Bool.false_ne_true (List.mem_takeWhile_imp h)

/-- A cycle whose unbounded wait has read no LOW stands in AWAITING_COMPLETION (R130, R158). -/
theorem runOneCycle_phase_of_no_low {c : CycleInputs} (hr : triggerRefusal c = none) (hbound : c.pollBound = none)
    (hlow : false ∉ c.levels) (s : State) : (runOneCycle c s).phase = .awaitingCompletion := by
  have hwait : awaitLow c.pollBound c.levels = .stillHigh := hbound ▸ awaitLow_none_eq_stillHigh.mpr hlow
  rw [runOneCycle_of_stillHigh hr hwait]

/-- A cycle that has read a LOW and is blocked in the engine stands in DONE (R130, R134). -/
theorem runOneCycle_phase_of_running {c : CycleInputs} (hr : triggerRefusal c = none) (hbound : c.pollBound = none)
    (hlow : false ∈ c.levels) (hrun : c.engine = .running) (s : State) : (runOneCycle c s).phase = .done := by
  have hwait : awaitLow c.pollBound c.levels = .low := hbound ▸ awaitLow_none_eq_low.mpr hlow
  have hacq : acquire c.sampleCount c.takesAbnormalExit c.engine = none := by rw [hrun, acquire]
  rw [runOneCycle_of_acquiring hr hwait hacq]

/-- Settles O45: HIGH readings keep the host polling, the first LOW leads to DONE, and a cycle's readings are HIGH ones
up to its first LOW. -/
theorem handshakeFollowsItsTable : Obligations.HandshakeFollowsItsTable := by
  refine ⟨handshakeRun_polling_nil, fun n => handshakeRun_polling n _, fun n => handshakeRun_polling n _,
    fun _ _ _ => handshakeNext_cases, fun c s hr hbound => ⟨fun hlow => ?_, fun hlow hrun => ?_⟩⟩
  · rw [runOneCycle_phase_of_no_low hr hbound hlow, map_readLevel_of_no_low hlow, handshakeRun_polling_nil]
  · rw [runOneCycle_phase_of_running hr hbound hlow hrun, map_readLevel_of_no_low (low_not_mem_takeWhile c.levels)]
    exact handshakeRun_polling _ [.readLevel false]

end Sys2Proof.Machine
end

section
/-! PROOFS. Waiting (70_reset_and_hazards R151): with no command accepted, a step only releases the response ports. -/

namespace Sys2Proof.Machine

/-- With no transfer on the port and nothing pending there is nothing to fetch, and acceptance changes nothing. -/
theorem step_of_no_command {s : State} (hv : s.cmdValid = false) (hp : s.pending = []) :
    step s = .next (idle s) := by
  have hnone : (accept s).pending = [] := accept_pending_eq_nil.mpr ⟨hp, hv⟩
  obtain ⟨w, rest, hcons, -⟩ | ⟨-, hidle⟩ := step_cases s
  · rw [hnone] at hcons
    cases hcons
  · rwa [accept_of_not_valid hv] at hidle

/-- Settles O7: the step waits, and waiting keeps every field but the response ports, on which `rsp_valid` is 0. -/
theorem stepWaitsWithoutACommand : Obligations.StepWaitsWithoutACommand := by
  intro s hv hp
  exact ⟨idle s, step_of_no_command hv hp, readPorts_of_not_valid (idle_rspValid s), idle_cfg s,
    (idle_cmdValid s).trans hv, idle_cmdSrc s, idle_cmdDin s, (idle_pending s).trans hp, idle_responses s, idle_pos s⟩

end Sys2Proof.Machine
end
